-- ==== Sys2Proof/Word.lean ====
section
/-! DEFINITION. The smallest datum of the machine, one character in one digit position (00_scope.md R8), and the
twelve-character word (R2, R7). There are no bits in this machine: a word is its characters. -/

namespace Sys2Proof

/-- What one digit position holds (00_scope.md R8). `other k` stands for the further non-numeric characters, which the
spec leaves as an OPEN index set (D1; log 1). -/
inductive Chr where
  | d (n : Fin 10)
  | minus
  | period
  | ignore
  | other (k : Nat)
  deriving DecidableEq, Repr, Inhabited

/-- A word: twelve characters, position 12 (the sign or T position) leftmost, position 1 least significant (R7). -/
structure Word where
  c12 : Chr
  c11 : Chr
  c10 : Chr
  c9 : Chr
  c8 : Chr
  c7 : Chr
  c6 : Chr
  c5 : Chr
  c4 : Chr
  c3 : Chr
  c2 : Chr
  c1 : Chr
  deriving DecidableEq, Repr, Inhabited

/-- The characters of a word as a string, leftmost (position 12) first. -/
def Word.chars (w : Word) : List Chr :=
  [w.c12, w.c11, w.c10, w.c9, w.c8, w.c7, w.c6, w.c5, w.c4, w.c3, w.c2, w.c1]

/-- The word a string of twelve characters spells, leftmost first. (A shorter string is filled with decimal zeros on the
right and a longer one cut; every use in the model has exactly twelve.) -/
def Word.ofChars (l : List Chr) : Word :=
  ⟨l.getD 0 (.d 0), l.getD 1 (.d 0), l.getD 2 (.d 0), l.getD 3 (.d 0), l.getD 4 (.d 0), l.getD 5 (.d 0),
   l.getD 6 (.d 0), l.getD 7 (.d 0), l.getD 8 (.d 0), l.getD 9 (.d 0), l.getD 10 (.d 0), l.getD 11 (.d 0)⟩

/-- The five characters of the M-digits' width: what the 5-digit visual-display register holds (10_state.md R40). -/
structure Five where
  c5 : Chr
  c4 : Chr
  c3 : Chr
  c2 : Chr
  c1 : Chr
  deriving DecidableEq, Repr, Inhabited

/-- The five characters as a string, leftmost first. -/
def Five.chars (v : Five) : List Chr := [v.c5, v.c4, v.c3, v.c2, v.c1]

/-- The five characters a string spells, leftmost first. -/
def Five.ofChars (l : List Chr) : Five :=
  ⟨l.getD 0 (.d 0), l.getD 1 (.d 0), l.getD 2 (.d 0), l.getD 3 (.d 0), l.getD 4 (.d 0)⟩

end Sys2Proof
end

