-- ==== Sys2Proof/Config.lean ====
section
/-! DEFINITION. What the source leaves to the installation and what it leaves open (00_scope.md R6, R9; the table of
parameters of 92_eei_decisions.md). An opaque constant here has NO body: nothing in Lean can know its value, so what is
proved with it holds for every value. -/

namespace Sys2Proof

/-- The open parameters of the spec that are numbers or choices of a whole run: the number of fast registers `NFR` and the words
of core storage `MEMSIZE` of the installation (00_scope.md R6, D2, D3), `PREFETCH` (20_memory.md R78, D32), and the reading
of the situations the spec refuses because the source states no result (R9; log 63): `strict` refuses them as the spec does,
else the instruction runs with a free value. They stand in State, where no instruction writes them, so that every statement holds for each of them
(log 2). -/
structure Installation where
  nfr : Nat
  memSize : Nat
  prefetch : Nat
  strict : Bool
  deriving DecidableEq, Repr, Inhabited

/-- The largest installation the source allows, 99 fast registers and core storage 00000 to 97499, with PREFETCH = 0, its
default (D32; log 49), and the spec's own reading, which refuses where no result is stated (R9; log 63). -/
def Installation.full : Installation := ⟨99, 97500, 0, true⟩

/-- The two kinds of departure from the ordinary sequence that end in a routine (60_exceptions.md R470). -/
inductive TrapKind where
  | contingency
  | error
  deriving DecidableEq, Repr, Inhabited

/-- How an addition combines its operands (40_arithmetic_add_sub.md R142, R145); no plan is the sign anomaly. -/
inductive Machine.AddPlan where
  /-- The magnitudes are added, the result carries the sign. -/
  | addMagnitudes (sg : Chr)
  /-- Signed addition of the two operands under these signs. -/
  | algebraic (sa sm : Chr)
  /-- One S-digit is 1-9 and appears unchanged in the result: `sg` that digit. -/
  | numericSign (sg : Chr)
  deriving DecidableEq, Repr

/-- The spec's `draw` (00_scope.md R9): the two words that the CU turn number `tick` may leave in a result the source
does not give, `slot` 0 for the first word of the destination and 1 for the second (log 11). -/
opaque Config.freeWord (tick slot : Nat) : Word

/-- The number a string spells in which some character is not numeric, where a rule needs a number (D28, D40; log 37). -/
opaque Config.nonNumericValue (s : List Chr) : Nat

/-- `ZeroSign` (40_arithmetic_add_sub.md R143, D18): does a zero result of two unlike signs carry a minus? The arguments
are the two sign characters (log 26). -/
opaque Config.zeroSignMinus (sa sm : Chr) : Bool

/-- `Round` (41_arithmetic_mul_div.md R204, D20): is the fraction num/den, in lowest terms and not whole, rounded up
(log 27)? -/
opaque Config.roundsUp (num den : Nat) : Bool

/-- `FAddInexact` (40_arithmetic_add_sub.md R147, D21): exponent, significand and sign of a floating sum that is not
digit-preserving, of the plan and both operands (log 28). -/
opaque Config.fAddInexact (plan : Machine.AddPlan) (ea fa em fm n : Nat) : Int × Nat × Chr

/-- The magnitude that results when exactly one fixed-point S-digit is 1-9 (40_arithmetic_add_sub.md R142 (iii), D38;
log 25). `sa`, `sm` are the S-digits, `sub` tells a subtraction. -/
opaque Config.numericSignSum (sa sm : Chr) (sub : Bool) (p q : Nat) : Nat

/-- The exponent and significand of a floating product with a non-normalized factor (R206, D44; log 30). -/
opaque Config.mulNonNormalized (ea fa em fm n k : Nat) (rounded : Bool) : Int × Nat

/-- The exponent and significand of a floating quotient with a non-normalized dividend (R208, D44; log 30). -/
opaque Config.divNonNormalized (ea fa em fm n nd k : Nat) (rounded : Bool) : Int × Nat

/-- `NegZeroCmp` (43_conditional_transfer.md R303, D25): are these two words, `- 0…0` and `0 0…0` in either order, equal
(log 34)? -/
opaque Config.negZeroEqual (u w : Word) : Bool

/-- `OverflowEA` (30_encoding.md R96, D9): the effective M-digits when M + Δ exceeds 99999 (log 38). -/
opaque Config.overflowEA (m delta : Nat) : Nat

/-- The address after the last one of its region, where `(C)+1` is not in the source (10_state.md R27, D30; log 39). -/
opaque Config.pastRegionEnd (a : Nat) : Nat

/-- Positions 9-1 of an index word, as a number of nine digits, after Δ + D above 99999 (`sub = false`) or Δ - D below 0
(`sub = true`): whether Δ wraps or carries into DDDD the source does not say (48_index_register.md R423, D27; log 36). -/
opaque Config.modifierOutOfRange (sub : Bool) (delta dd : Nat) : Nat

/-- What the 12-digit visual-display register holds after `v` was put into the 5-digit one, `old` before: whether the two share
digits the source does not say (10_state.md R40, 91_not_in_source.md N15; log 64). -/
opaque Config.display12After (v : Five) (old : Word) : Word

/-- What the 5-digit visual-display register holds after `w` was put into the 12-digit one, `old` before (R40, N15; log 64). -/
opaque Config.display5After (w : Word) (old : Five) : Five

/-- The fixed-point magnitude of a floating-point number whose exponent exceeds the scale factor
(47_conversion.md R392, R395, D49; log 47). `width` is 11 or 22. -/
opaque Config.unfitConversion (sf e x width : Nat) : Nat

end Sys2Proof
end

