-- ==== Sys2Proof/Machine/Digits.lean ====
section
/-! DEFINITION. The digit-string primitives of 00_scope.md R9: sign classes, `num`, `dig_n`, the slices `w[hi:lo]` and the
partial write of a slice, and the position of a leading digit. -/

namespace Sys2Proof.Machine
open Sys2Proof

/-- The classes of a sign character (30_encoding.md R105). -/
inductive SignClass where
  | z
  | mi
  | p
  | nz
  | ot
  deriving DecidableEq, Repr

/-- `cls(c)` (30_encoding.md R105). -/
def cls : Chr → SignClass
  | .d n => if n = 0 then .z else .nz
  | .minus => .mi
  | .period => .p
  | .ignore => .ot
  | .other _ => .ot

/-- `isnum(c)`: the character is a decimal digit (00_scope.md R8). -/
def isNum : Chr → Bool
  | .d _ => true
  | _ => false

/-- The digit a numeric character shows. -/
def digitValue : Chr → Nat
  | .d n => n.val
  | _ => 0

/-- The decimal number a string of digits spells, read from the left onto `acc`. -/
def decimal (acc : Nat) : List Chr → Nat
  | [] => acc
  | c :: l => decimal (acc * 10 + digitValue c) l

/-- `num(s)` (00_scope.md R9). Where some character is not numeric the source says nothing: a free value of the string's
width (D28, D40; log 37). -/
def num (s : List Chr) : Nat :=
  if s.all isNum then decimal 0 s else Config.nonNumericValue s % 10 ^ s.length

/-- The decimal digit character of `v mod 10`. -/
def digitChr (v : Nat) : Chr := .d (Fin.ofNat 10 v)

/-- `dig_n(v)` (00_scope.md R9): exactly `n` decimal digits spelling `v`, with leading zeros. -/
def dig : Nat → Nat → List Chr
  | 0, _ => []
  | n + 1, v => digitChr (v / 10 ^ n) :: dig n v

/-- `n` decimal zeros. -/
def zeros (n : Nat) : List Chr := List.replicate n (.d 0)

/-- `w[hi:lo]` (00_scope.md R9): the characters from position `hi` down to position `lo`, leftmost first. -/
def slice (w : Word) (hi lo : Nat) : List Chr := (w.chars.drop (12 - hi)).take (hi + 1 - lo)

/-- `w[hi:lo] <- s`: the word with positions `hi`..`lo` replaced by the string `s`, all others unchanged (R9). -/
def splice (w : Word) (hi lo : Nat) (s : List Chr) : Word :=
  Word.ofChars (w.chars.take (12 - hi) ++ s ++ w.chars.drop (13 - lo))

/-- The word `c ‖ s`: position 12 and the eleven positions below it. -/
def wordOf (c : Chr) (s : List Chr) : Word := Word.ofChars (c :: s)

/-- The number of leading zeros of `dig_n(v)`, for `v < 10^n` (40_arithmetic_add_sub.md R147, 47_conversion.md R393). -/
def leadingZeros : Nat → Nat → Nat
  | 0, _ => 0
  | n + 1, v => if v < 10 ^ n then leadingZeros n v + 1 else 0

/-- The word `.00 000 000 000`, absolute zero: what register number 00 and address 99900 supply
(10_state.md R22, 20_memory.md R63). -/
def absoluteZero : Word := wordOf .period (zeros 11)

/-- Twelve decimal zeros. -/
def zeroWord : Word := wordOf (.d 0) (zeros 11)

end Sys2Proof.Machine
end

