-- ==== Sys2Proof/Machine/State.lean ====
section
/-! DEFINITION. The state of one computing unit (10_state.md R20), the reasons a step can stop, and the state after reset.
State is plain data. -/

namespace Sys2Proof.Machine
open Sys2Proof

/-- Why the machine stops. Each is a definite end that the spec names or that has no location to act on. -/
inductive Fault where
  /-- `fault IllegalInstruction` (30_encoding.md R111, D11): an unassigned instruction number. Raised by `cuTurn`. Safe:
  the hardware surely goes on somewhere, the model does not. -/
  | illegalInstruction (n : Nat)
  /-- The unit is stopped (10_state.md R44, D34): it has no step. Raised by `cuTurn`. Safe. -/
  | stopped
  deriving DecidableEq, Repr

/-- Why a step has no meaning (00_scope.md R9 `refuse`). -/
inductive Refusal where
  /-- An arm of `exec` whose instruction has no meaning yet. Raised by `exec` alone. Safe. -/
  | notModelled (mnemonic : String)
  /-- A = 00 where the instruction stores in A or uses a neighbour of A (10_state.md R22, R23, D6). Raised by the
  operations that name an accumulator. Safe. -/
  | registerZero
  /-- A register number above NFR, or a neighbour A+1, A+2, A+3, A-1 that is no register (R21, R23, D7). Raised by the
  operations that name a register. Safe. -/
  | missingRegister (r : Nat)
  /-- An access to an address that does not exist: 97500-99899, core at or above MEMSIZE, 999rr with rr > NFR, and
  100000 or more (20_memory.md R62, R64 to R67, D4). Raised by every access to one word of storage. Safe. -/
  | unmapped (a : Nat)
  /-- A store to the constant at 99900 (20_memory.md R63, D5). Raised by the stores. Safe. -/
  | constantStore
  /-- An instruction fetch from 99900 (R63, D5). Raised by `fetch`. Safe. -/
  | constantFetch
  /-- A two-word operand that does not lie wholly in core or wholly in the fast registers (20_memory.md R66, D8). Raised
  by the double accesses. Safe. -/
  | straddlingPair (a : Nat)
  /-- A non-numeric character in positions 11-1 of a fetched instruction (30_encoding.md R95, D10). Raised by `cuTurn`.
  Safe. -/
  | nonNumericField
  /-- A selector t in the T-digit while FF 20 or FF 20+t is set: the tracing mode, out of scope (00_scope.md R5,
  60_exceptions.md R486, D12). Raised by `cuTurn`. Safe. -/
  | tracingMode (t : Nat)
  /-- The ignore sign in the T-digit: the indirect-addressing mode, out of scope (R5, R488, D13). Raised by `cuTurn`.
  Safe. -/
  | indirectAddressing
  /-- 95, 96 or 97 on a flip-flop number that is not defined or that the table of B-6 does not permit for it
  (10_state.md R34, R37, D36). Raised by `execTf`, `execRf`, `execSf`. Safe. -/
  | flipFlopOperation (k : Nat)
  /-- With PREFETCH above 0: an instruction fetch from an address that one of the last PREFETCH instructions wrote
  (20_memory.md R78, D32). Raised by `fetch`. Safe. -/
  | prefetched (a : Nat)
  /-- A situation the spec refuses because the source states no result, named by its decision (00_scope.md R9 "must not
  continue with a value"; D9, D27, D28, D30, D38, D40, D44, D49). Raised by `settle`, unless State.inst asks for the other
  reading (log 63). Safe. -/
  | unstated (decision : Nat)
  deriving DecidableEq, Repr

/-- A stop inside a meaning: one of the two. -/
inductive Stop where
  | fault (r : Fault)
  | refused (r : Refusal)
  deriving DecidableEq, Repr

/-- What a part of a meaning gives: a value, or a stop. -/
abbrev Res (α : Type) := Except Stop α

/-- The outcome `Trap(kind, k)` of an instruction that raised a contingency or of an illegal T-digit
(60_exceptions.md R472, R476). -/
structure Trap where
  kind : TrapKind
  number : Nat
  deriving DecidableEq, Repr

/-- A move of an agent other than the computing unit, made between two instructions (20_memory.md R76,
60_exceptions.md R484, R494; log 15). In the two moves that set a contingency flip-flop, `enter` says whether the
transfer to the contingency routine follows before the next instruction, which the source leaves open (R484). -/
inductive Move where
  /-- The processor resets FF 10 (10_state.md R35). -/
  | resetDisclosure
  /-- The processor sets FF 11 (R35). -/
  | processorIntervention (enter : Bool)
  /-- The console sets FF 30+j (R484). -/
  | consoleIntervention (j : Fin 5) (enter : Bool)
  /-- Interlock is set or reset from outside (R41, D35). -/
  | setInterlock (b : Bool)
  /-- The 5-digit display register is loaded (R494). -/
  | loadDisplay5 (v : Five)
  /-- The 12-digit display register is loaded (R494). -/
  | loadDisplay12 (w : Word)
  /-- Another agent writes the core word at `a` (R76, R494). -/
  | writeCore (a : Nat) (w : Word)
  deriving DecidableEq, Repr

/-- Storage as a list of (address, word): addresses strictly rising, no entry equal to the blank word. One address holds
one twelve-character word and nothing smaller has an address (20_memory.md R61; log 3). -/
abbrev Memory := List (Nat × Word)

/-- The state of one computing unit (10_state.md R20), with the model's own fields `trap`, `inst`,
`written`, `schedule`, `tick`. -/
structure State where
  /-- Fast registers 01 to 99; register r stands at index r-1 (R21). -/
  x : Vector Word 99
  /-- The control counter C, 0 to 99999 (R26). -/
  pc : Nat
  /-- The register C2, 0 to 99999 (R29). -/
  c2 : Nat
  /-- The addressable flip-flops 00 to 99, `true` = set (R33, R34). -/
  ff : Vector Bool 100
  /-- The 5-digit visual-display register (R40). -/
  vd5 : Five
  /-- The 12-digit visual-display register (R40). -/
  vd12 : Word
  /-- The visual-display Interlock (R41). -/
  interlock : Bool
  /-- The flag Connect (R42). -/
  connect : Bool
  /-- Set by instruction 99 (R44). -/
  stopped : Bool
  /-- Core storage (20_memory.md R60). -/
  mem : Memory
  /-- The model's: an event whose transfer of control to a routine is still to be made (log 14). -/
  trap : Option Trap
  /-- The model's: the open parameters NFR, MEMSIZE, PREFETCH and the reading of unstated results (log 2). -/
  inst : Installation
  /-- The model's: the addresses each of the last PREFETCH instructions wrote, the latest first (20_memory.md R78, D32). -/
  written : List (List Nat)
  /-- The model's: what moves next, `some m` another agent's move m, `none` the computing unit (log 15). -/
  schedule : List (Option Move)
  /-- The model's: how many turns the computing unit has had, which makes the free values fresh (log 11). -/
  tick : Nat
  deriving DecidableEq, Repr, Inhabited

/-- The state after reset. The source gives no initial value of anything (10_state.md R45, 70_reset_and_hazards.md R520),
so every value here is the model's (DESIGN CHOICE, logs 2 and 4 to 11, 14, 15). -/
def State.reset : State where
  x := Vector.replicate 99 zeroWord
  pc := 0
  c2 := 0
  ff := Vector.replicate 100 false
  vd5 := Five.ofChars (zeros 5)
  vd12 := zeroWord
  interlock := false
  connect := false
  stopped := false
  mem := []
  trap := none
  inst := Installation.full
  written := []
  schedule := []
  tick := 0

/-- What a step gives. -/
abbrev Out := Host.Outcome State Fault Refusal

end Sys2Proof.Machine

namespace Sys2Proof

/-- `TrapEntry` (60_exceptions.md R472, D15): the state after the transfer to a routine, for the event and the state it was
raised in (log 14). -/
opaque Config.trapEntry (kind : TrapKind) (k : Nat) (s : Machine.State) : Machine.State

end Sys2Proof
end

