-- ==== Sys2Proof/Syntax.lean ====
section
/-! DEFINITION. The instructions as syntax: one constructor per row of spec/opcode_table.json, in the table's order.
Every instruction is one word `T II AA BB MMMMM` (30_encoding.md R90, R112), so all constructors carry the same fields. -/

namespace Sys2Proof

/-- A legal T-digit of an instruction that is executed (30_encoding.md R91): a period, or a tracing-mode selector. -/
inductive TDigit where
  | untraced
  | selector (t : Nat)
  deriving DecidableEq, Repr

/-- The fields of an instruction word beside the instruction number: T, A-digits, B-digits, M-digits (R90). -/
structure Fields where
  t : TDigit
  a : Nat
  b : Nat
  m : Nat
  deriving DecidableEq, Repr

/-- The 76 instructions of 30_encoding.md R110. -/
inductive Instr where
  /-- `00 SK` (49_display_misc.md R445). -/
  | sk (o : Fields)
  /-- `01 AX` (40_arithmetic_add_sub.md R160). -/
  | ax (o : Fields)
  /-- `02 A` (40_arithmetic_add_sub.md R161). -/
  | a (o : Fields)
  /-- `03 AM` (40_arithmetic_add_sub.md R162). -/
  | am (o : Fields)
  /-- `04 AU` (40_arithmetic_add_sub.md R163). -/
  | au (o : Fields)
  /-- `05 AAX` (40_arithmetic_add_sub.md R164). -/
  | aax (o : Fields)
  /-- `06 AA` (40_arithmetic_add_sub.md R165). -/
  | aa (o : Fields)
  /-- `09 FV` (49_display_misc.md R441). -/
  | fv (o : Fields)
  /-- `11 NX` (40_arithmetic_add_sub.md R166). -/
  | nx (o : Fields)
  /-- `12 N` (40_arithmetic_add_sub.md R167). -/
  | n (o : Fields)
  /-- `14 NU` (40_arithmetic_add_sub.md R168). -/
  | nu (o : Fields)
  /-- `15 NNX` (40_arithmetic_add_sub.md R169). -/
  | nnx (o : Fields)
  /-- `16 NN` (40_arithmetic_add_sub.md R170). -/
  | nn (o : Fields)
  /-- `19 FVK` (49_display_misc.md R442). -/
  | fvk (o : Fields)
  /-- `20 MXR` (41_arithmetic_mul_div.md R220). -/
  | mxr (o : Fields)
  /-- `21 MXE` (41_arithmetic_mul_div.md R221). -/
  | mxe (o : Fields)
  /-- `22 MR` (41_arithmetic_mul_div.md R222). -/
  | mr (o : Fields)
  /-- `23 M` (41_arithmetic_mul_div.md R223). -/
  | m (o : Fields)
  /-- `24 MU` (41_arithmetic_mul_div.md R224). -/
  | mu (o : Fields)
  /-- `25 ME` (41_arithmetic_mul_div.md R225). -/
  | me (o : Fields)
  /-- `26 MMX` (41_arithmetic_mul_div.md R226). -/
  | mmx (o : Fields)
  /-- `27 MM` (41_arithmetic_mul_div.md R227). -/
  | mm (o : Fields)
  /-- `29 SV` (49_display_misc.md R443). -/
  | sv (o : Fields)
  /-- `30 DX` (41_arithmetic_mul_div.md R230). -/
  | dx (o : Fields)
  /-- `31 DXE` (41_arithmetic_mul_div.md R231). -/
  | dxe (o : Fields)
  /-- `32 DR` (41_arithmetic_mul_div.md R232). -/
  | dr (o : Fields)
  /-- `34 DUR` (41_arithmetic_mul_div.md R234). -/
  | dur (o : Fields)
  /-- `35 DDX` (41_arithmetic_mul_div.md R235). -/
  | ddx (o : Fields)
  /-- `36 DD` (41_arithmetic_mul_div.md R236). -/
  | dd (o : Fields)
  /-- `37 DSE` (41_arithmetic_mul_div.md R237). -/
  | dse (o : Fields)
  /-- `39 SVK` (49_display_misc.md R444). -/
  | svk (o : Fields)
  /-- `40 S` (42_data_transfer.md R261). -/
  | s (o : Fields)
  /-- `41 SN` (42_data_transfer.md R262). -/
  | sn (o : Fields)
  /-- `42 SM` (42_data_transfer.md R263). -/
  | sm (o : Fields)
  /-- `43 F` (42_data_transfer.md R264). -/
  | f (o : Fields)
  /-- `45 SS` (42_data_transfer.md R265). -/
  | ss (o : Fields)
  /-- `46 SSN` (42_data_transfer.md R266). -/
  | ssn (o : Fields)
  /-- `47 SSM` (42_data_transfer.md R267). -/
  | ssm (o : Fields)
  /-- `48 FF` (42_data_transfer.md R268). -/
  | ff (o : Fields)
  /-- `50 CX` (47_conversion.md R392). -/
  | cx (o : Fields)
  /-- `51 C` (47_conversion.md R393). -/
  | c (o : Fields)
  /-- `52 PR` (45_shift.md R362). -/
  | pr (o : Fields)
  /-- `53 PL` (45_shift.md R363). -/
  | pl (o : Fields)
  /-- `55 CCX` (47_conversion.md R395). -/
  | ccx (o : Fields)
  /-- `56 CC` (47_conversion.md R396). -/
  | cc (o : Fields)
  /-- `57 PPR` (45_shift.md R364). -/
  | ppr (o : Fields)
  /-- `58 PPL` (45_shift.md R365). -/
  | ppl (o : Fields)
  /-- `59 PPC` (45_shift.md R366). -/
  | ppc (o : Fields)
  /-- `60 EOP` (42_data_transfer.md R271). -/
  | eop (o : Fields)
  /-- `61 EA` (42_data_transfer.md R272). -/
  | ea (o : Fields)
  /-- `62 EB` (42_data_transfer.md R273). -/
  | eb (o : Fields)
  /-- `63 EAB` (42_data_transfer.md R274). -/
  | eab (o : Fields)
  /-- `64 EM` (42_data_transfer.md R275). -/
  | em (o : Fields)
  /-- `65 EL` (46_extract.md R381). -/
  | el (o : Fields)
  /-- `66 EU` (46_extract.md R382). -/
  | eu (o : Fields)
  /-- `70 TE` (43_conditional_transfer.md R310). -/
  | te (o : Fields)
  /-- `71 TG` (43_conditional_transfer.md R311). -/
  | tg (o : Fields)
  /-- `72 TZ` (43_conditional_transfer.md R312). -/
  | tz (o : Fields)
  /-- `73 TGZ` (43_conditional_transfer.md R313). -/
  | tgz (o : Fields)
  /-- `74 TLZ` (43_conditional_transfer.md R314). -/
  | tlz (o : Fields)
  /-- `75 TTE` (43_conditional_transfer.md R315). -/
  | tte (o : Fields)
  /-- `76 TTG` (43_conditional_transfer.md R316). -/
  | ttg (o : Fields)
  /-- `80 BIT` (48_index_register.md R424). -/
  | bit (o : Fields)
  /-- `81 BDT` (48_index_register.md R425). -/
  | bdt (o : Fields)
  /-- `82 BIC` (48_index_register.md R426). -/
  | bic (o : Fields)
  /-- `83 BDC` (48_index_register.md R427). -/
  | bdc (o : Fields)
  /-- `85 BI` (48_index_register.md R428). -/
  | bi (o : Fields)
  /-- `86 BD` (48_index_register.md R429). -/
  | bd (o : Fields)
  /-- `90 T` (44_unconditional_transfer.md R342). -/
  | t (o : Fields)
  /-- `91 TR` (44_unconditional_transfer.md R343). -/
  | tr (o : Fields)
  /-- `92 TB` (44_unconditional_transfer.md R344). -/
  | tb (o : Fields)
  /-- `93 SLJ` (42_data_transfer.md R290). -/
  | slj (o : Fields)
  /-- `95 TF` (43_conditional_transfer.md R318). -/
  | tf (o : Fields)
  /-- `96 RF` (49_display_misc.md R446). -/
  | rf (o : Fields)
  /-- `97 SF` (49_display_misc.md R447). -/
  | sf (o : Fields)
  /-- `99 H` (49_display_misc.md R448). -/
  | h (o : Fields)
  deriving DecidableEq, Repr

/-- The instruction number II of each instruction (30_encoding.md R110). -/
def Instr.number : Instr → Nat
  | .sk _ => 0
  | .ax _ => 1
  | .a _ => 2
  | .am _ => 3
  | .au _ => 4
  | .aax _ => 5
  | .aa _ => 6
  | .fv _ => 9
  | .nx _ => 11
  | .n _ => 12
  | .nu _ => 14
  | .nnx _ => 15
  | .nn _ => 16
  | .fvk _ => 19
  | .mxr _ => 20
  | .mxe _ => 21
  | .mr _ => 22
  | .m _ => 23
  | .mu _ => 24
  | .me _ => 25
  | .mmx _ => 26
  | .mm _ => 27
  | .sv _ => 29
  | .dx _ => 30
  | .dxe _ => 31
  | .dr _ => 32
  | .dur _ => 34
  | .ddx _ => 35
  | .dd _ => 36
  | .dse _ => 37
  | .svk _ => 39
  | .s _ => 40
  | .sn _ => 41
  | .sm _ => 42
  | .f _ => 43
  | .ss _ => 45
  | .ssn _ => 46
  | .ssm _ => 47
  | .ff _ => 48
  | .cx _ => 50
  | .c _ => 51
  | .pr _ => 52
  | .pl _ => 53
  | .ccx _ => 55
  | .cc _ => 56
  | .ppr _ => 57
  | .ppl _ => 58
  | .ppc _ => 59
  | .eop _ => 60
  | .ea _ => 61
  | .eb _ => 62
  | .eab _ => 63
  | .em _ => 64
  | .el _ => 65
  | .eu _ => 66
  | .te _ => 70
  | .tg _ => 71
  | .tz _ => 72
  | .tgz _ => 73
  | .tlz _ => 74
  | .tte _ => 75
  | .ttg _ => 76
  | .bit _ => 80
  | .bdt _ => 81
  | .bic _ => 82
  | .bdc _ => 83
  | .bi _ => 85
  | .bd _ => 86
  | .t _ => 90
  | .tr _ => 91
  | .tb _ => 92
  | .slj _ => 93
  | .tf _ => 95
  | .rf _ => 96
  | .sf _ => 97
  | .h _ => 99

/-- The fields of an instruction word beside its number. -/
def Instr.fields : Instr → Fields
  | .sk o => o
  | .ax o => o
  | .a o => o
  | .am o => o
  | .au o => o
  | .aax o => o
  | .aa o => o
  | .fv o => o
  | .nx o => o
  | .n o => o
  | .nu o => o
  | .nnx o => o
  | .nn o => o
  | .fvk o => o
  | .mxr o => o
  | .mxe o => o
  | .mr o => o
  | .m o => o
  | .mu o => o
  | .me o => o
  | .mmx o => o
  | .mm o => o
  | .sv o => o
  | .dx o => o
  | .dxe o => o
  | .dr o => o
  | .dur o => o
  | .ddx o => o
  | .dd o => o
  | .dse o => o
  | .svk o => o
  | .s o => o
  | .sn o => o
  | .sm o => o
  | .f o => o
  | .ss o => o
  | .ssn o => o
  | .ssm o => o
  | .ff o => o
  | .cx o => o
  | .c o => o
  | .pr o => o
  | .pl o => o
  | .ccx o => o
  | .cc o => o
  | .ppr o => o
  | .ppl o => o
  | .ppc o => o
  | .eop o => o
  | .ea o => o
  | .eb o => o
  | .eab o => o
  | .em o => o
  | .el o => o
  | .eu o => o
  | .te o => o
  | .tg o => o
  | .tz o => o
  | .tgz o => o
  | .tlz o => o
  | .tte o => o
  | .ttg o => o
  | .bit o => o
  | .bdt o => o
  | .bic o => o
  | .bdc o => o
  | .bi o => o
  | .bd o => o
  | .t o => o
  | .tr o => o
  | .tb o => o
  | .slj o => o
  | .tf o => o
  | .rf o => o
  | .sf o => o
  | .h o => o

end Sys2Proof
end

