-- ==== Sys2Proof/Machine/Ops.lean ====
section
/-! DEFINITION. The named operations over storage, registers, flip-flops, C and C2; the effective address; what raising a
contingency or an error does and the transfer to its routine; the moves of the other agents. -/

namespace Sys2Proof.Machine
open Sys2Proof

/-! ### Core storage -/

/-- What an address of core storage that is not listed reads as: twelve decimal zeros (the source gives no initial
contents, 10_state.md R45; DESIGN CHOICE, log 4). -/
def blankWord : Word := zeroWord

/-- The word at one core address. -/
def Memory.read : Memory → Nat → Word
  | [], _ => blankWord
  | (b, v) :: m, a => if a = b then v else Memory.read m a

/-- `e` put before `m`, unless its word is the one an unlisted address reads as. -/
def Memory.entry (a : Nat) (w : Word) (m : Memory) : Memory := if w = blankWord then m else (a, w) :: m

/-- Write one core word, keeping the addresses rising and no blank entry. -/
def Memory.write : Memory → Nat → Word → Memory
  | [], a, w => Memory.entry a w []
  | (b, v) :: m, a, w =>
    if a < b then Memory.entry a w ((b, v) :: m)
    else if a = b then Memory.entry a w m
    else (b, v) :: Memory.write m a w

/-- The canonical form: addresses strictly rising, and no entry equal to what an unlisted address reads as. -/
def Memory.wf : Memory → Bool
  | [] => true
  | (a, w) :: m => decide (w ≠ blankWord) && m.all (fun e => decide (a < e.1)) && Memory.wf m

/-! ### Addresses -/

/-- The installed fast registers: NFR, 1 to 99 (00_scope.md R6, 10_state.md R21). -/
def registersOf (i : Installation) : Nat := max 1 (min i.nfr 99)

/-- The installed core words: MEMSIZE, at most 97500 (R6, 20_memory.md R60). -/
def coreWordsOf (i : Installation) : Nat := min i.memSize 97500

/-- What stands at an address (20_memory.md R65). -/
inductive Region where
  | core
  | constant
  | fast (r : Nat)
  | unmapped
  deriving DecidableEq, Repr

/-- `Region(a)` (20_memory.md R65). -/
def region (i : Installation) (a : Nat) : Region :=
  if a < coreWordsOf i then .core
  else if a = 99900 then .constant
  else if 99901 ≤ a ∧ a ≤ 99900 + registersOf i then .fast (a - 99900)
  else .unmapped

/-- Two addresses in core, or two in the fast registers (the condition of 20_memory.md R66 on a pair, and of
10_state.md R27 on `(C)+1`). -/
def Region.alike : Region → Region → Bool
  | .core, .core => true
  | .fast _, .fast _ => true
  | _, _ => false

/-- Something can be stored at such an address (20_memory.md R67). -/
def Region.writable : Region → Bool
  | .core => true
  | .fast _ => true
  | .constant => false
  | .unmapped => false

/-- `a` and `a+1` lie in one region. -/
def sameRegion (i : Installation) (a : Nat) : Bool := (region i a).alike (region i (a + 1))

/-- `a + 1` as an address: the next one of the same region. After the last address of a region the source does not say
what it is (10_state.md R27, D30): a free five-digit value (log 39). -/
def succAddr (i : Installation) (a : Nat) : Nat :=
  if sameRegion i a then a + 1 else Config.pastRegionEnd a % 100000

/-! ### Fast registers -/

/-- Register `r` is installed (10_state.md R21). -/
def State.hasReg (s : State) (r : Nat) : Bool := decide (1 ≤ r) && decide (r ≤ registersOf s.inst)

/-- The word of fast register `r`; number 00 reads as absolute zero (10_state.md R22). -/
def State.reg (s : State) (r : Nat) : Word :=
  match r with
  | 0 => absoluteZero
  | n + 1 => (s.x[n]?).getD zeroWord

/-- The register file with register `r` replaced; number 00 names no register. -/
def putReg (x : Vector Word 99) (r : Nat) (w : Word) : Vector Word 99 :=
  match r with
  | 0 => x
  | n + 1 => x.setIfInBounds n w

/-- `x[r] <- w`. -/
def State.setReg (s : State) (r : Nat) (w : Word) : State := { s with x := putReg s.x r w }

/-- A register named as a neighbour or an index register: it must be installed (10_state.md R21, R23, D7). -/
def getReg (s : State) (r : Nat) : Res Word :=
  if s.hasReg r then .ok (s.reg r) else .error (.refused (.missingRegister r))

/-- The accumulator A of an instruction that stores in it or uses its neighbours: A = 00 is refused (R22, R23, D6). -/
def getAcc (s : State) (a : Nat) : Res Word :=
  if a = 0 then .error (.refused .registerZero) else getReg s a

/-- `RegRead(a)`, for the instructions that do not store in A: A = 00 supplies absolute zero (10_state.md R22). -/
def regRead (s : State) (a : Nat) : Res Word :=
  if a = 0 then .ok absoluteZero else getReg s a

/-- The pair A' = A, A+1, most significant half first (10_state.md R23, 20_memory.md R70). -/
def getAccPair (s : State) (a : Nat) : Res (Word × Word) := do
  let h ← getAcc s a
  let l ← getReg s (a + 1)
  .ok (h, l)

/-- Write of the pair A'. -/
def State.setPair (s : State) (a : Nat) (h l : Word) : State := (s.setReg a h).setReg (a + 1) l

/-! ### Storage access -/

/-- The word at an address, where there is one: core, the constant, or a fast register. -/
def State.load (s : State) (a : Nat) : Word :=
  match region s.inst a with
  | .core => s.mem.read a
  | .constant => absoluteZero
  | .fast r => s.reg r
  | .unmapped => blankWord

/-- A word written at an address of core or of the fast registers; elsewhere nothing is written. -/
def State.store (s : State) (a : Nat) (w : Word) : State :=
  match region s.inst a with
  | .core => { s with mem := s.mem.write a w }
  | .fast r => s.setReg r w
  | .constant => s
  | .unmapped => s

/-- `MemRead(a, 1)` (20_memory.md R66). -/
def read1 (s : State) (a : Nat) : Res Word :=
  match region s.inst a with
  | .unmapped => .error (.refused (.unmapped a))
  | _ => .ok (s.load a)

/-- `MemRead(a, 2)` (20_memory.md R66): most significant half at `a`, least significant half at `a+1`. -/
def read2 (s : State) (a : Nat) : Res (Word × Word) :=
  if sameRegion s.inst a then .ok (s.load a, s.load (a + 1)) else .error (.refused (.straddlingPair a))

/-- `MemWrite(a, 1, w)` (20_memory.md R67). -/
def write1 (s : State) (a : Nat) (w : Word) : Res State :=
  match region s.inst a with
  | .unmapped => .error (.refused (.unmapped a))
  | .constant => .error (.refused .constantStore)
  | _ => .ok (s.store a w)

/-- `MemWrite(a, 2, (h, l))` (20_memory.md R67). -/
def write2 (s : State) (a : Nat) (h l : Word) : Res State :=
  if sameRegion s.inst a then .ok ((s.store a h).store (a + 1) l) else .error (.refused (.straddlingPair a))

/-! ### The effective M-digits -/

/-- `EA` (30_encoding.md R96): the M-digits plus the address modifier of the index register the B-digits name, read
before the instruction changes anything. A sum above 99999 is `OverflowEA`, a free five-digit value (D9; log 38). -/
def effM (s : State) (o : Fields) : Res Nat :=
  if o.b = 0 then .ok o.m
  else do
    let w ← getReg s o.b
    let delta := num (slice w 5 1)
    .ok (if o.m + delta ≤ 99999 then o.m + delta else Config.overflowEA o.m delta % 100000)

/-- `COUNT` and `SF`: the two low digits of the effective M-digits (30_encoding.md R97, 45_shift.md R360,
47_conversion.md R390). -/
def countOf (ea : Nat) : Nat := ea % 100

/-! ### Flip-flops -/

/-- `FF[k]`. -/
def State.flag (s : State) (k : Nat) : Bool := (s.ff[k]?).getD false

/-- One flip-flop written, the others as they are. -/
def State.putFlag (s : State) (k : Nat) (b : Bool) : State := { s with ff := s.ff.setIfInBounds k b }

/-- The contingency flip-flops that FF 99 summarizes (60_exceptions.md R480). -/
def contingencyFlags : List Nat := [11, 30, 31, 32, 33, 34, 39, 40, 41, 42, 43, 44, 45]

/-- The error flip-flops that FF 98 summarizes (R480). -/
def errorFlags : List Nat :=
  38 :: (List.range' 46 25 ++ List.range' 71 12 ++ [84])

/-- The fourteen flip-flops whose reset resets 71 to 82 (10_state.md R36). -/
def oddEvenFlags : List Nat := [50, 51, 52, 53, 54, 55, 56, 57, 58, 59, 60, 67, 68, 70]

/-- The digit-position flip-flops 71 to 82 (R36). -/
def digitFlags : List Nat := List.range' 71 12

/-- FF 98 and FF 99 recomputed from their groups (60_exceptions.md R480, D16). -/
def State.refreshMasters (s : State) : State :=
  (s.putFlag 98 (errorFlags.any s.flag)).putFlag 99 (contingencyFlags.any s.flag)

/-- Several flip-flops set. -/
def State.putFlags (s : State) : List Nat → State
  | [] => s
  | k :: l => State.putFlags (s.putFlag k true) l

/-- Several flip-flops reset. -/
def State.clearFlags (s : State) : List Nat → State
  | [] => s
  | k :: l => State.clearFlags (s.putFlag k false) l

/-- The automatic reset of 71 to 82 (10_state.md R36). -/
def State.followDigitFlags (s : State) : State :=
  if oddEvenFlags.any s.flag then s else s.clearFlags digitFlags

/-- `FF[k] <- false`, then 71 to 82 and the masters following (49_display_misc.md R446). -/
def State.resetFlag (s : State) (k : Nat) : State := ((s.putFlag k false).followDigitFlags).refreshMasters

/-- What a CU program can do with a flip-flop: test, reset, set (the columns of B-6, 10_state.md R34). -/
structure FlagMarks where
  test : Bool
  reset : Bool
  set : Bool
  deriving DecidableEq, Repr

/-- One row of B-6: the flip-flops `lo` to `hi` and their marks. -/
structure FlagRow where
  lo : Nat
  hi : Nat
  marks : FlagMarks
  deriving DecidableEq, Repr

/-- The table of 10_state.md R34. -/
def flagTable : List FlagRow :=
  [⟨0, 9, ⟨true, true, true⟩⟩, ⟨10, 10, ⟨true, false, true⟩⟩, ⟨11, 11, ⟨true, true, false⟩⟩,
   ⟨15, 15, ⟨true, true, true⟩⟩, ⟨20, 20, ⟨true, true, false⟩⟩, ⟨21, 29, ⟨true, true, true⟩⟩,
   ⟨30, 34, ⟨true, true, false⟩⟩, ⟨38, 70, ⟨true, true, false⟩⟩, ⟨71, 82, ⟨true, false, false⟩⟩,
   ⟨84, 84, ⟨true, true, false⟩⟩, ⟨90, 90, ⟨true, true, true⟩⟩, ⟨98, 98, ⟨true, false, false⟩⟩,
   ⟨99, 99, ⟨true, false, false⟩⟩]

/-- The marks of flip-flop `k`; a number the table does not list has none (10_state.md R37). -/
def marksOf (k : Nat) : FlagMarks :=
  match flagTable.find? (fun r => decide (r.lo ≤ k) && decide (k ≤ r.hi)) with
  | some r => r.marks
  | none => ⟨false, false, false⟩

/-! ### The control counter and C2 -/

/-- `(C)+1 ---> C` (10_state.md R27). -/
def State.next (s : State) : State := { s with pc := succAddr s.inst s.pc }

/-- `M ---> C` taken or not, with the update of C2 that goes with it (10_state.md R28, R30; 43_conditional_transfer.md
R300): taken, C2 gets (C)+1 and C the effective M-digits; not taken, C2 gets the effective M-digits and C is stepped. -/
def State.branch (s : State) (taken : Bool) (ea : Nat) : State :=
  if taken then { s with c2 := succAddr s.inst s.pc, pc := ea }
  else { s with c2 := ea, pc := succAddr s.inst s.pc }

/-! ### Contingencies and errors -/

/-- The master flip-flop of a kind of event (60_exceptions.md R470, R480). -/
def masterOf : TrapKind → Nat
  | .contingency => 99
  | .error => 98

/-- `raise` (60_exceptions.md R472, R476, R481), called after the instruction's own writes (R473): every flip-flop whose
condition holds is set, and its master, and the outcome is Trap with the lowest number (`ks` is rising). With no
condition nothing happens. pc and C2 stand as the instruction left them. -/
def State.raise (s : State) (kind : TrapKind) (ks : List Nat) : State :=
  match ks with
  | [] => s
  | k :: _ => { (s.putFlags ks).putFlag (masterOf kind) true with trap := some ⟨kind, k⟩ }

/-- Contingencies raised by a computing-unit instruction. -/
def State.raiseContingency (s : State) (ks : List Nat) : State := s.raise .contingency ks

/-! ### What every state of the machine obeys -/

/-- Every listed core word lies in installed core storage (20_memory.md R60, R65). -/
def coreListed (s : State) : Bool := s.mem.all (fun e => decide (e.1 < coreWordsOf s.inst))

/-- FF 98 and FF 99 are the disjunctions of their groups (60_exceptions.md R480, D16; log 20). -/
def mastersAgree (s : State) : Bool :=
  decide (s.flag 98 = errorFlags.any s.flag) && decide (s.flag 99 = contingencyFlags.any s.flag)

/-- While the fourteen odd-even flip-flops are reset, 71 to 82 are (10_state.md R36). -/
def digitFlagsFollow (s : State) : Bool := oddEvenFlags.any s.flag || !digitFlags.any s.flag

/-- The good states: storage canonical and within the installation, C and C2 of five digits, the summary flip-flops
following their groups. -/
def State.good (s : State) : Bool :=
  s.mem.wf && coreListed s && decide (s.pc ≤ 99999) && decide (s.c2 ≤ 99999) && mastersAgree s && digitFlagsFollow s

/-- The transfer of control to the contingency or the error routine (60_exceptions.md R472, R476): any state that obeys
`good`, a free value of the event and of the whole state it was raised in (`TrapEntry`, D15; log 14), the model's own fields
kept. There is no return operation: the repertoire has no return instruction (R482). -/
def State.enterRoutine (s : State) (t : Trap) : State :=
  let e := { Config.trapEntry t.kind t.number s with
    trap := none, inst := s.inst, written := s.written, schedule := s.schedule, tick := s.tick }
  if e.good then e else { s with trap := none }

/-! ### The visual-display registers -/

/-- A value put into the 5-digit visual-display register, by 29 or by another agent. Whether the 12-digit one shares digits with
it is open (10_state.md R40, N15): that one holds a free value then (log 64). -/
def State.putDisplay5 (s : State) (v : Five) : State :=
  { s with vd5 := v, vd12 := Config.display12After v s.vd12 }

/-- A value put into the 12-digit visual-display register, by 39 or by another agent; the 5-digit one holds a free value then
(R40, N15; log 64). -/
def State.putDisplay12 (s : State) (w : Word) : State :=
  { s with vd12 := w, vd5 := Config.display5After w s.vd5 }

/-! ### The other agents -/

/-- A contingency flip-flop set from outside (60_exceptions.md R484): the master follows (D16), and where `enter` says so the
transfer to the contingency routine is to be made. THE MODEL'S CHOICE (R481 gives no order between the two; log 15): where an
event is pending already, that one's transfer is made and this one's is not, its flip-flop staying set. -/
def State.intervene (s : State) (k : Nat) (enter : Bool) : State :=
  let s' := (s.putFlag k true).putFlag 99 true
  if enter && s.trap.isNone then { s' with trap := some ⟨.contingency, k⟩ } else s'

/-- One move of an agent other than the computing unit (R35, R41, R76, R484, R494). -/
def State.applyMove (s : State) : Move → State
  | .resetDisclosure => s.putFlag 10 false
  | .processorIntervention e => s.intervene 11 e
  | .consoleIntervention j e => s.intervene (30 + j.val) e
  | .setInterlock b => { s with interlock := b }
  | .loadDisplay5 v => s.putDisplay5 v
  | .loadDisplay12 w => s.putDisplay12 w
  | .writeCore a w => if a < coreWordsOf s.inst then { s with mem := s.mem.write a w } else s

/-! ### The end of a meaning -/

/-- The outcome of a meaning. -/
def outcome : Res State → Out
  | .ok s => .next s
  | .error (.fault r) => .fault r
  | .error (.refused r) => .refused r

end Sys2Proof.Machine
end

