-- ==== Sys2Proof/Machine/Operands.lean ====
section
/-! DEFINITION. The operand formats (30_encoding.md R100 to R104) and the words results are written in. -/

namespace Sys2Proof.Machine
open Sys2Proof

/-- The decimal digits of a fixed-point magnitude: 11 single, 22 double (R100, R102). -/
def fxDigits (double : Bool) : Nat := if double then 22 else 11

/-- The decimal digits of a floating-point significand: 9 single, 20 double (R101, R103). -/
def flDigits (double : Bool) : Nat := if double then 20 else 9

/-- `fxmag(w)`: the magnitude in positions 11-1 (R100). -/
def fxmag (w : Word) : Nat := num (slice w 11 1)

/-- `dfxmag(h, l)`: 22 digits, the most significant half first (R102). -/
def dfxmag (h l : Word) : Nat := fxmag h * 10 ^ 11 + fxmag l

/-- `flexp(w)`: the excess-fifty exponent in positions 11-10 (R101; `dflexp` of R103 reads the same positions). -/
def flexp (w : Word) : Nat := num (slice w 11 10)

/-- `flsig(w)`: the significand in positions 9-1 (R101). -/
def flsig (w : Word) : Nat := num (slice w 9 1)

/-- `dflsig(h, l)`: nine digits of the most significant half, eleven of the other (R103). -/
def dflsig (h l : Word) : Nat := flsig h * 10 ^ 11 + fxmag l

/-- `normalized`: the most significant of n significand digits is not zero (R101, R103). -/
def normalized (n f : Nat) : Bool := decide (10 ^ (n - 1) ≤ f)

/-- `ixN(w)`: the cycle count NNN (R104). -/
def ixN (w : Word) : Nat := num (slice w 12 10)

/-- `ixD(w)`: the increment DDDD (R104). -/
def ixD (w : Word) : Nat := num (slice w 9 6)

/-- `ixDelta(w)`: the address modifier (R104). -/
def ixDelta (w : Word) : Nat := num (slice w 5 1)

/-- A magnitude with the sign its character shows: a minus sign makes it negative. -/
def signed (c : Chr) (v : Nat) : Int := if c = .minus then -(v : Int) else (v : Int)

/-- A fixed-point word `sg ‖ dig_11(r)`. -/
def fxWord (sg : Chr) (r : Nat) : Word := wordOf sg (dig 11 r)

/-- The two words of a double-precision fixed-point number, the sign in both (R102). -/
def fxPair (sg : Chr) (r : Nat) : Word × Word := (fxWord sg (r / 10 ^ 11), fxWord sg (r % 10 ^ 11))

/-- The word the source does not give (00_scope.md R9, `draw`), for this turn of the unit (log 11). -/
def drawn (tick slot : Nat) : Word := Config.freeWord tick slot

/-- What a sign anomaly deposits: sign zero, eleven characters the source does not give
(40_arithmetic_add_sub.md R141, D48; log 22). -/
def anomalyWord (tick slot : Nat) : Word := wordOf (.d 0) (slice (drawn tick slot) 11 1)

/-- The exponent positions of a floating-point result: two digits, or characters the source does not give (R149, D22;
log 24). -/
inductive Exponent where
  | digits (e : Nat)
  | open_
  deriving DecidableEq, Repr

/-- The characters of the exponent positions. -/
def Exponent.chars (tick : Nat) : Exponent → List Chr
  | .digits e => dig 2 e
  | .open_ => slice (drawn tick 0) 11 10

/-- A floating-point word `sg ‖ EE ‖ dig_9(f)` (R101). -/
def flWord (tick : Nat) (sg : Chr) (e : Exponent) (f : Nat) : Word := wordOf sg (e.chars tick ++ dig 9 f)

/-- The two words of a double-precision floating-point number, the sign in both, the exponent in the first (R103). -/
def flPair (tick : Nat) (sg : Chr) (e : Exponent) (f : Nat) : Word × Word :=
  (flWord tick sg e (f / 10 ^ 11), fxWord sg (f % 10 ^ 11))

/-- A destination of one or two words and the contingencies to raise after it is written (60_exceptions.md R473). -/
structure Result1 where
  w : Word
  raised : List Nat
  deriving DecidableEq, Repr

/-- The same for a destination of two words. -/
structure Result2 where
  h : Word
  l : Word
  raised : List Nat
  deriving DecidableEq, Repr

/-- Deposit one word in register `r`, step C, then raise (R140, R473). -/
def State.deposit1 (s : State) (r : Nat) (v : Result1) : State := ((s.setReg r v.w).next).raiseContingency v.raised

/-- Deposit two words in registers `r`, `r+1`, step C, then raise. -/
def State.deposit2 (s : State) (r : Nat) (v : Result2) : State := ((s.setPair r v.h v.l).next).raiseContingency v.raised

/-- Single-precision arithmetic on (A) and (M), the result to register A (40_arithmetic_add_sub.md R140,
41_arithmetic_mul_div.md R200): all operands are read first. `f` gets the A operand, the M operand, the turn. THE MODEL'S
CHOICE: where both are missing, the stop of the storage operand is the one reported, here and in the shapes below (log 61). -/
def arithA (f : Word → Word → Nat → Result1) (o : Fields) (s : State) : Res State := do
  let ea ← effM s o
  let m ← read1 s ea
  let a ← getAcc s o.a
  .ok (s.deposit1 o.a (f a m s.tick))

/-- The same with the result to register A+1, (A) retained (R163, R224, R234). -/
def arithUp (f : Word → Word → Nat → Result1) (o : Fields) (s : State) : Res State := do
  let ea ← effM s o
  let m ← read1 s ea
  let (a, _) ← getAccPair s o.a
  .ok (s.deposit1 (o.a + 1) (f a m s.tick))

/-- Single-precision operands, a result of two words to A' (R221, R225, R231). -/
def arithExt (f : Word → Word → Nat → Result2) (o : Fields) (s : State) : Res State := do
  let ea ← effM s o
  let m ← read1 s ea
  let (a, _) ← getAccPair s o.a
  .ok (s.deposit2 o.a (f a m s.tick))

/-- Double-precision operands (A') and (M'), the result to A' (R164, R226, R235). -/
def arithPair (f : Word × Word → Word × Word → Nat → Result2) (o : Fields) (s : State) : Res State := do
  let ea ← effM s o
  let m ← read2 s ea
  let a ← getAccPair s o.a
  .ok (s.deposit2 o.a (f a m s.tick))

/-- A double-precision (A') and a single-precision (M), the result to A' (R237). -/
def arithPairBy (f : Word × Word → Word → Nat → Result2) (o : Fields) (s : State) : Res State := do
  let ea ← effM s o
  let m ← read1 s ea
  let a ← getAccPair s o.a
  .ok (s.deposit2 o.a (f a m s.tick))

/-- An operation on register A alone, with the count or scale factor of the M-digits (45_shift.md R360,
47_conversion.md R390). -/
def onAcc (f : Nat → Word → Nat → Result1) (o : Fields) (s : State) : Res State := do
  let ea ← effM s o
  let a ← getAcc s o.a
  .ok (s.deposit1 o.a (f (countOf ea) a s.tick))

/-- The same on the pair A'. -/
def onAccPair (f : Nat → Word × Word → Nat → Result2) (o : Fields) (s : State) : Res State := do
  let ea ← effM s o
  let a ← getAccPair s o.a
  .ok (s.deposit2 o.a (f (countOf ea) a s.tick))

end Sys2Proof.Machine
end

