-- ==== Sys2Proof/Machine/Flags.lean ====
section
/-! DEFINITION. What decides the sign of a result and which contingency flip-flops an arithmetic instruction raises: the
sign rules of addition and subtraction (40_arithmetic_add_sub.md R142 to R146), of multiplication and division
(41_arithmetic_mul_div.md R201 to R203), the exponent range (R149) and the sign of a zero result (R143). -/

namespace Sys2Proof.Machine
open Sys2Proof

/-- The flip-flops of the contingencies (60_exceptions.md R471). -/
def ffZeroResult : Nat := 40
/-- FF 41, non-normalized divisor. -/
def ffDivisor : Nat := 41
/-- FF 42, exponent overflow. -/
def ffExpOver : Nat := 42
/-- FF 43, exponent underflow. -/
def ffExpUnder : Nat := 43
/-- FF 44, fixed-point overflow. -/
def ffFixedOver : Nat := 44
/-- FF 45, sign anomaly. -/
def ffSign : Nat := 45
/-- FF 49, decoding error in the tracing mode selector digit. -/
def ffDecoding : Nat := 49

/-- The sign of a zero result of two unlike signs: `ZeroSign`, a free choice of `0` and `-` (R143, R201, D18; log 26). -/
def zeroSign (sa sm : Chr) : Chr := if Config.zeroSignMinus sa sm then .minus else .d 0

/-- `inv`: the sign a subtraction gives the M operand; a period is not inverted (R142). -/
def inv : Chr → Chr
  | .d n => if n = 0 then .minus else .d n
  | .minus => .d 0
  | c => c

/-- The S-digit is numeric other than zero. -/
def numericSignBit (c : Chr) : Bool := decide (cls c = .nz)

/-- The sign the M operand is used with. -/
def usedSign (sub : Bool) (sm : Chr) : Chr := if sub then inv sm else sm

/-- (iv), (v) of R142 once neither S-digit is an anomaly or numeric: a period in either operand adds magnitudes under the
sign of the other. -/
def signPlan (sa sm : Chr) (sub : Bool) : AddPlan :=
  if cls sm = .p then .addMagnitudes sa
  else if cls sa = .p then .addMagnitudes (usedSign sub sm)
  else .algebraic sa (usedSign sub sm)

/-- `FxPlan` (R142; double precision R144). -/
def fxPlan (sa sm : Chr) (sub double : Bool) : Option AddPlan :=
  if cls sa = .ot ∨ cls sm = .ot then none
  else if double ∧ (cls sa = .nz ∨ cls sm = .nz) then none
  else if cls sa = .nz ∧ cls sm = .nz then none
  else if cls sa = .nz then some (.numericSign sa)
  else if cls sm = .nz then some (.numericSign sm)
  else some (signPlan sa sm sub)

/-- `FlPlan` (R145). -/
def flPlan (sa sm : Chr) (sub : Bool) : Option AddPlan :=
  if cls sa = .nz ∨ cls sa = .ot ∨ cls sm = .nz ∨ cls sm = .ot then none
  else some (signPlan sa sm sub)

/-- Under a period sign the exponent flip-flops are inhibited (R145 (ii), 60_exceptions.md R475). -/
def AddPlan.inhibited : AddPlan → Bool
  | .addMagnitudes _ => true
  | _ => false

/-- `ExpRange` (R149): the exponent positions. -/
def expField (e : Int) : Exponent := if 0 ≤ e ∧ e ≤ 99 then .digits e.toNat else .open_

/-- `ExpRange` (R149): the contingencies, none when inhibited. -/
def expFlags (e : Int) (inhibited : Bool) : List Nat :=
  if inhibited then [] else if e < 0 then [ffExpUnder] else if 99 < e then [ffExpOver] else []

/-- `MdSign` (R201): is the sign of a multiplication or division an anomaly? -/
def mdAnomaly (sa sm : Chr) : Bool :=
  decide (cls sa = .nz ∨ cls sa = .ot ∨ cls sm = .nz ∨ cls sm = .ot)

/-- `periodcase` (R201 (b)). -/
def mdPeriod (sa sm : Chr) : Bool := decide (cls sa = .p ∨ cls sm = .p)

/-- `MdSign` (R201): the sign of a product or quotient of magnitude `mag`. -/
def mdSign (sa sm : Chr) (mag : Nat) : Chr :=
  if mdPeriod sa sm then .period
  else if sa = sm then .d 0
  else if mag = 0 then zeroSign sa sm
  else .minus

/-- The exponent positions of a floating product or quotient: `00` in the period case (R202). -/
def mdExpField (period : Bool) (e : Int) : Exponent := if period then .digits 0 else expField e

end Sys2Proof.Machine
end

