-- ==== Sys2Proof/Machine/AddSub.lean ====
section
/-! DEFINITION. Addition and subtraction (40_arithmetic_add_sub.md): 01 02 03 04 05 06 11 12 14 15 16. -/

namespace Sys2Proof.Machine
open Sys2Proof

/-! ### Fixed point -/

/-- The fixed-point add core (R143): the sign and magnitude of the sum, before the overflow test. `sa`, `sm` are the
operands' S-digits; the magnitude under one numeric sign is a free value (R142 (iii), D38; log 25). -/
def fxSum (plan : AddPlan) (sa sm : Chr) (sub : Bool) (p q : Nat) : Chr × Nat :=
  match plan with
  | .addMagnitudes sg => (sg, p + q)
  | .numericSign sg => (sg, Config.numericSignSum sa sm sub p q)
  | .algebraic ua um =>
    let v := signed ua p + signed um q
    (if v < 0 then .minus else if v = 0 then zeroSign ua um else .d 0, v.natAbs)

/-- The word of a single-precision fixed-point overflow: not given (R149 (a)), but a numeric sign of one operand appears
unchanged in the result (R142 (iii)). -/
def overflowWord (plan : AddPlan) (tick : Nat) : Word :=
  match plan with
  | .numericSign sg => wordOf sg (slice (drawn tick 0) 11 1)
  | _ => drawn tick 0

/-- Single-precision fixed-point addition or subtraction (R160, R166): anomaly R141, overflow R149 (a). -/
def fxAdd1 (sub : Bool) (a m : Word) (tick : Nat) : Result1 :=
  match fxPlan a.c12 m.c12 sub false with
  | none => ⟨anomalyWord tick 0, [ffSign]⟩
  | some plan =>
    let (sg, r) := fxSum plan a.c12 m.c12 sub (fxmag a) (fxmag m)
    if r < 10 ^ 11 then ⟨fxWord sg r, []⟩ else ⟨overflowWord plan tick, [ffFixedOver]⟩

/-- Double-precision fixed-point addition or subtraction (R164, R169): the S-digits of the most significant halves alone
are examined (R144). -/
def fxAdd2 (sub : Bool) (a m : Word × Word) (tick : Nat) : Result2 :=
  match fxPlan a.1.c12 m.1.c12 sub true with
  | none => ⟨anomalyWord tick 0, anomalyWord tick 1, [ffSign]⟩
  | some plan =>
    let (sg, r) := fxSum plan a.1.c12 m.1.c12 sub (dfxmag a.1 a.2) (dfxmag m.1 m.2)
    if r < 10 ^ 22 then ⟨(fxPair sg r).1, (fxPair sg r).2, []⟩
    else ⟨drawn tick 0, drawn tick 1, [ffFixedOver]⟩

/-! ### Floating point -/

/-- A floating-point operand: excess-fifty exponent and significand (30_encoding.md R101, R103). -/
structure FlOperand where
  e : Nat
  f : Nat
  deriving DecidableEq, Repr

/-- A floating-point sum: sign, exponent before the range test, significand, whether the exponent positions are open
whatever `e` is (U9), and whether FF 40 is raised (R150). -/
structure FlSum where
  sg : Chr
  e : Int
  f : Nat
  expOpen : Bool
  zeroResult : Bool
  deriving DecidableEq, Repr

/-- `Renorm` (R147): a carry shifts right one place, leading zeros are removed, a zero result shifts out `n` zeros
(R150: nine; 20 in double precision is D21). -/
def renorm (eh r n : Nat) : Int × Nat :=
  if 10 ^ n ≤ r then ((eh : Int) + 1, r / 10)
  else if r = 0 then ((eh : Int) - n, 0)
  else ((eh : Int) - leadingZeros n r, r * 10 ^ leadingZeros n r)

/-- The exact sum `v * 10^el` (in units of the last place of the operand of smaller exponent) normalized to `n` digits and
truncated: the reference reading of `FAddInexact` (R147). -/
def truncateSum (el v n : Nat) : Int × Nat :=
  let width := n + 101
  let len := width - leadingZeros width v
  if n ≤ len then ((el : Int) + len - n, v / 10 ^ (len - n))
  else ((el : Int) + len - n, v * 10 ^ (n - len))

/-- The constraint of 92_eei_decisions.md on `FAddInexact`: normalized or zero (a zero has shifted out `n` places, R150), and
within one unit of the last kept place of the exact value `v * 10^el`; that place is the last one of the result or of the
operand of larger exponent, so that both readings of R147 are admitted (log 28). -/
def admissibleSum (eh el v n : Nat) (c : Int × Nat) : Bool :=
  let low := min c.1 el
  let got : Int := c.2 * 10 ^ (c.1 - low).toNat
  let want : Int := v * 10 ^ ((el : Int) - low).toNat
  (decide (c.2 = 0 ∧ c.1 = (eh : Int) - n) || (normalized n c.2 && decide (c.2 < 10 ^ n))) &&
    decide ((got - want).natAbs ≤ 10 ^ (max c.1 eh - low).toNat)

/-- The sign of a sum of exact value `v` that is not digit-preserving: the plan's own, or the sign of the value (R143). -/
def exactSign (plan : AddPlan) (v : Int) : Chr :=
  match plan with
  | .addMagnitudes sg => sg
  | .numericSign sg => sg
  | .algebraic _ _ => if v < 0 then .minus else .d 0

/-- The signs `FAddInexact` can give: that of the exact value, with which the result agrees, and for a zero significand of an
algebraic sum either of `0` and `-` (log 28). -/
def admissibleSign (plan : AddPlan) (v : Int) (f : Nat) (sg : Chr) : Bool :=
  match plan with
  | .algebraic _ _ => decide (sg = exactSign plan v ∨ (f = 0 ∧ (sg = .d 0 ∨ sg = .minus)))
  | _ => decide (sg = exactSign plan v)

/-- `FAddInexact` (R147, D21): any admissible exponent, significand and sign, a free value of the plan and the operands; where
the free value is not admissible, the reference reading (log 28). -/
def fAddInexact (plan : AddPlan) (a m : FlOperand) (eh el : Nat) (v : Int) (n : Nat) : Int × Nat × Chr :=
  let c := Config.fAddInexact plan a.e a.f m.e m.f n
  if admissibleSum eh el v.natAbs n (c.1, c.2.1) && admissibleSign plan v c.2.1 c.2.2 then c
  else ((truncateSum el v.natAbs n).1, (truncateSum el v.natAbs n).2, exactSign plan v)

/-- The alignment of the operand of smaller exponent drops only zeros: "digit-preserving" (R147). -/
def digitPreserving (d f n : Nat) : Bool := decide (f % 10 ^ min d n = 0 ∧ (d ≤ n ∨ f = 0))

/-- The significand of an operand, aligned to the exponent `eh` by dropping `eh - e` places (R147). -/
def aligned (eh : Nat) (o : FlOperand) : Nat := o.f / 10 ^ (eh - o.e)

/-- An operand's significand in units of the last place of exponent `el`. -/
def atExponent (el : Nat) (o : FlOperand) : Nat := o.f * 10 ^ (o.e - el)

/-- Is the sum of these two operands digit-preserving? -/
def flExact (a m : FlOperand) (n : Nat) : Bool :=
  if m.e ≤ a.e then digitPreserving (a.e - m.e) m.f n else digitPreserving (m.e - a.e) a.f n

/-- The floating-point add core on `n` digits (R147, R150). Where the alignment drops a digit that is not zero, exponent,
significand and sign are `FAddInexact`'s, the model's choice being the bounds it puts on them (D21; log 28). -/
def flAdd (plan : AddPlan) (a m : FlOperand) (n : Nat) : FlSum :=
  let eh := max a.e m.e
  let el := min a.e m.e
  match plan with
  | .addMagnitudes sg | .numericSign sg =>
    let r := aligned eh a + aligned eh m
    if flExact a m n then
      ⟨sg, (renorm eh r n).1, (renorm eh r n).2, decide (r = 0), false⟩
    else
      let c := fAddInexact plan a m eh el (atExponent el a + atExponent el m : Nat) n
      ⟨c.2.2, c.1, c.2.1, false, false⟩
  | .algebraic sa sm =>
    if flExact a m n then
      let v := signed sa (aligned eh a) + signed sm (aligned eh m)
      let sg : Chr := if v < 0 then .minus else if v = 0 then zeroSign sa sm else .d 0
      let c := renorm eh v.natAbs n
      ⟨sg, c.1, c.2, false, decide (c.2 = 0 ∧ (n = 20 ∨ a.e = m.e))⟩
    else
      let v := signed sa (atExponent el a) + signed sm (atExponent el m)
      let c := fAddInexact plan a m eh el v n
      ⟨c.2.2, c.1, c.2.1, false, decide (c.2.1 = 0 ∧ (n = 20 ∨ a.e = m.e))⟩

/-- The exponent positions of a floating-point sum (R149; U9 for the zero sum of magnitudes). -/
def FlSum.field (r : FlSum) : Exponent := if r.expOpen then .open_ else expField r.e

/-- The contingencies of a floating-point sum, the lowest number first (R150, R149, 60_exceptions.md R481). -/
def FlSum.raised (r : FlSum) (plan : AddPlan) : List Nat :=
  (if r.zeroResult then [ffZeroResult] else []) ++ expFlags r.e plan.inhibited

/-- The single-precision floating-point operand of a word (30_encoding.md R101). -/
def flOperand (w : Word) : FlOperand := ⟨flexp w, flsig w⟩

/-- The double-precision floating-point operand of a pair (R103). -/
def flOperand2 (w : Word × Word) : FlOperand := ⟨flexp w.1, dflsig w.1 w.2⟩

/-- Single-precision floating-point addition or subtraction with the M operand's S-digit given (R161, R162, R167). -/
def flAddSigned (sm : Chr) (sub : Bool) (a m : Word) (tick : Nat) : Result1 :=
  match flPlan a.c12 sm sub with
  | none => ⟨anomalyWord tick 0, [ffSign]⟩
  | some plan =>
    let r := flAdd plan (flOperand a) (flOperand m) 9
    ⟨flWord tick r.sg r.field r.f, r.raised plan⟩

/-- 02, 04, 12, 14: the S-digit of the M operand is examined (R161, R163, R167, R168). -/
def flAdd1 (sub : Bool) (a m : Word) (tick : Nat) : Result1 := flAddSigned m.c12 sub a m tick

/-- 03: the S-digit of the M operand behaves as a zero in all respects (R146, R162). -/
def flAddAbs (a m : Word) (tick : Nat) : Result1 := flAddSigned (.d 0) false a m tick

/-- 06, 16: double precision (R165, R170; R144). -/
def flAdd2 (sub : Bool) (a m : Word × Word) (tick : Nat) : Result2 :=
  match flPlan a.1.c12 m.1.c12 sub with
  | none => ⟨anomalyWord tick 0, anomalyWord tick 1, [ffSign]⟩
  | some plan =>
    let r := flAdd plan (flOperand2 a) (flOperand2 m) 20
    ⟨(flPair tick r.sg r.field r.f).1, (flPair tick r.sg r.field r.f).2, r.raised plan⟩

/-! ### The instructions -/

/-- `01 AX  (M) + (A) → A` (R160). -/
def execAx (o : Fields) (s : State) : Out := outcome (arithA (fxAdd1 false) o s)

/-- `02 A  (M) ⊕ (A) → A` (R161). -/
def execA (o : Fields) (s : State) : Out := outcome (arithA (flAdd1 false) o s)

/-- `03 AM  |(M)| ⊕ (A) → A` (R162). -/
def execAm (o : Fields) (s : State) : Out := outcome (arithA flAddAbs o s)

/-- `04 AU  (M) ⊕ (A) → A+1` (R163). -/
def execAu (o : Fields) (s : State) : Out := outcome (arithUp (flAdd1 false) o s)

/-- `05 AAX  (M') + (A') → A'` (R164). -/
def execAax (o : Fields) (s : State) : Out := outcome (arithPair (fxAdd2 false) o s)

/-- `06 AA  (M') ⊕ (A') → A'` (R165). -/
def execAa (o : Fields) (s : State) : Out := outcome (arithPair (flAdd2 false) o s)

/-- `11 NX  -(M) + (A) → A` (R166). -/
def execNx (o : Fields) (s : State) : Out := outcome (arithA (fxAdd1 true) o s)

/-- `12 N  -(M) ⊕ (A) → A` (R167). -/
def execN (o : Fields) (s : State) : Out := outcome (arithA (flAdd1 true) o s)

/-- `14 NU  -(M) ⊕ (A) → A+1` (R168). -/
def execNu (o : Fields) (s : State) : Out := outcome (arithUp (flAdd1 true) o s)

/-- `15 NNX  -(M') + (A') → A'` (R169). -/
def execNnx (o : Fields) (s : State) : Out := outcome (arithPair (fxAdd2 true) o s)

/-- `16 NN  -(M') ⊕ (A') → A'` (R170). -/
def execNn (o : Fields) (s : State) : Out := outcome (arithPair (flAdd2 true) o s)

end Sys2Proof.Machine
end

