-- ==== Sys2Proof/Machine/CondTransfer.lean ====
section
/-! DEFINITION. Conditional transfer of control (43_conditional_transfer.md): 70-76 and 95. -/

namespace Sys2Proof.Machine
open Sys2Proof

/-- The outcome of a test: it transfers, it does not, or a sign character blocks it (R300). -/
inductive Cond where
  | yes
  | no
  | blocked
  deriving DecidableEq, Repr

/-- A truth value as a test outcome. -/
def Cond.ofBool (b : Bool) : Cond := if b then .yes else .no

/-- `CondXfer` (R300): a blocked test goes on as a failed one and raises contingency 45 (R302; 90_conflicts.md C20). -/
def condXfer (s : State) (ea : Nat) : Cond → State
  | .yes => s.branch true ea
  | .no => s.branch false ea
  | .blocked => (s.branch false ea).raiseContingency [ffSign]

/-- A sign character that blocks a comparison (R302). -/
def blocks (w : Word) : Bool := decide (cls w.c12 = .ot)

/-- `key(w)` (R303). -/
def key (w : Word) : Int :=
  match cls w.c12 with
  | .mi => -(fxmag w : Int)
  | .nz => (digitValue w.c12 * 10 ^ 11 + fxmag w : Nat)
  | _ => (fxmag w : Nat)

/-- The word has a minus sign. -/
def isMinus (w : Word) : Bool := decide (w.c12 = .minus)

/-- Every comparison takes a period in position 12 as a zero (R301). -/
def periodAsZero (w : Word) : Word := if w.c12 = .period then { w with c12 := .d 0 } else w

/-- `Cmp(u, w)` (R303); `NegZeroCmp` decides between a minus zero and a zero, the latter written with a zero or a period
(R301, D25; log 34). -/
def cmpWords (u w : Word) : Ordering :=
  if key u < key w then .lt
  else if key w < key u then .gt
  else if isMinus u = isMinus w then .eq
  else if Config.negZeroEqual (periodAsZero u) (periodAsZero w) then .eq
  else if isMinus u then .lt
  else .gt

/-- A test of (A) against (A+1) (R310, R311). -/
def testTwo (p : Word → Word → Bool) (o : Fields) (s : State) : Res State := do
  let ea ← effM s o
  let (u, w) ← getAccPair s o.a
  .ok (condXfer s ea (if blocks u || blocks w then .blocked else .ofBool (p u w)))

/-- A test of (A) alone, A = 00 supplying absolute zero (R312 to R314). -/
def testOne (c : Word → Cond) (o : Fields) (s : State) : Res State := do
  let ea ← effM s o
  let u ← regRead s o.a
  .ok (condXfer s ea (c u))

/-- A test of (A') against ([A+2]'), all four S-digits examined (R302, R315, R316). -/
def testFour (p : Word × Word → Word × Word → Bool) (o : Fields) (s : State) : Res State := do
  let ea ← effM s o
  let (u0, u1) ← getAccPair s o.a
  let w0 ← getReg s (o.a + 2)
  let w1 ← getReg s (o.a + 3)
  .ok (condXfer s ea
    (if blocks u0 || blocks u1 || blocks w0 || blocks w1 then .blocked else .ofBool (p (u0, u1) (w0, w1))))

/-- `(A) = 0?` (R312): any S-digit but 0, minus and period blocks; the eleven digits are compared. -/
def zeroTest (u : Word) : Cond :=
  match cls u.c12 with
  | .nz => .blocked
  | .ot => .blocked
  | _ => .ofBool (decide (fxmag u = 0))

/-- `(A) > 0?` (R313). -/
def positiveTest (u : Word) : Cond :=
  match cls u.c12 with
  | .ot => .blocked
  | .nz => .yes
  | .mi => .no
  | _ => .ofBool (decide (0 < fxmag u))

/-- `(A) negative?` (R314): the S-digit only. -/
def negativeTest (u : Word) : Cond :=
  match cls u.c12 with
  | .ot => .blocked
  | .mi => .yes
  | _ => .no

/-- `70 TE  (A) = (A+1)?` (R310). -/
def execTe (o : Fields) (s : State) : Out := outcome (testTwo (fun u w => decide (cmpWords u w = .eq)) o s)

/-- `71 TG  (A) > (A+1)?` (R311). -/
def execTg (o : Fields) (s : State) : Out := outcome (testTwo (fun u w => decide (cmpWords u w = .gt)) o s)

/-- `72 TZ  (A) = 0?` (R312). -/
def execTz (o : Fields) (s : State) : Out := outcome (testOne zeroTest o s)

/-- `73 TGZ  (A) > 0?` (R313). -/
def execTgz (o : Fields) (s : State) : Out := outcome (testOne positiveTest o s)

/-- `74 TLZ  (A) negative?` (R314). -/
def execTlz (o : Fields) (s : State) : Out := outcome (testOne negativeTest o s)

/-- All twenty-four positions equal, digit by digit (R315). -/
def pairsEqual (u w : Word × Word) : Bool :=
  decide (periodAsZero u.1 = periodAsZero w.1 ∧ periodAsZero u.2 = periodAsZero w.2)

/-- The most significant halves decide; when they are equal, the least significant halves alone (R316). -/
def pairGreater (u w : Word × Word) : Bool :=
  match cmpWords u.1 w.1 with
  | .gt => true
  | .lt => false
  | .eq => decide (cmpWords u.2 w.2 = .gt)

/-- `75 TTE  (A') = ([A+2]')?` (R315). -/
def execTte (o : Fields) (s : State) : Out := outcome (testFour pairsEqual o s)

/-- `76 TTG  (A') > ([A+2]')?` (R316). -/
def execTtg (o : Fields) (s : State) : Out := outcome (testFour pairGreater o s)

/-- `95 TF  Test FF A` (R318): the A-digits are the flip-flop number (D51). -/
def execTf (o : Fields) (s : State) : Out := outcome do
  let ea ← effM s o
  if (marksOf o.a).test then .ok (condXfer s ea (.ofBool (s.flag o.a)))
  else .error (.refused (.flipFlopOperation o.a))

end Sys2Proof.Machine
end

