-- ==== Sys2Proof/Machine/Convert.lean ====
section
/-! DEFINITION. Conversion between fixed and floating point (47_conversion.md): 50, 51, 55, 56. -/

namespace Sys2Proof.Machine
open Sys2Proof

/-- The fixed-point magnitude of `width` digits of a floating-point number (R392, R395): the significand at the top of the
field, moved right by scale factor minus exponent, digits past position 1 lost. With the exponent above the scale factor
the source does not give it (D49; log 47). -/
def fixedMagnitude (sf e x width : Nat) : Nat :=
  if e ≤ sf then x * 100 / 10 ^ (sf - e) else Config.unfitConversion sf e x width % 10 ^ width

/-- The zeros shifted out to normalize a magnitude of `width` digits: all of them for a zero (R393, R394, R396, D50). -/
def shiftedOut (width p : Nat) : Nat := if p = 0 then width else leadingZeros width p

/-- The exponent of a converted fixed-point number (R393, R396). -/
def convertedExp (sf width p : Nat) : Int := (sf : Int) - shiftedOut width p

/-- Its significand: normalized, the two low digits dropped (R393, R396). -/
def convertedSig (width p : Nat) : Nat := p * 10 ^ shiftedOut width p / 100

/-- The contingencies of a fixed-to-floating conversion: 40 for a zero, 43 for an exponent below 00 (R394, R393). -/
def convertedFlags (sf width p : Nat) : List Nat :=
  (if p = 0 then [ffZeroResult] else []) ++ expFlags (convertedExp sf width p) false

/-- `50 CX  FL → FX` on one word (R392); the S-digit is carried forward (R391). -/
def flToFx (sf : Nat) (a : Word) : Result1 := ⟨fxWord a.c12 (fixedMagnitude sf (flexp a) (flsig a) 11), []⟩

/-- `55 CCX  FL' → FX'` on two words (R395); each S-digit stays in its word (R391, D50). -/
def flToFx2 (sf : Nat) (a : Word × Word) : Result2 :=
  let f := fixedMagnitude sf (flexp a.1) (dflsig a.1 a.2) 22
  ⟨fxWord a.1.c12 (f / 10 ^ 11), fxWord a.2.c12 (f % 10 ^ 11), []⟩

/-- `51 C  FX → FL` on one word (R393, R394). -/
def fxToFl (sf : Nat) (a : Word) (tick : Nat) : Result1 :=
  let p := fxmag a
  ⟨flWord tick a.c12 (expField (convertedExp sf 11 p)) (convertedSig 11 p), convertedFlags sf 11 p⟩

/-- `56 CC  FX' → FL'` on two words (R396). -/
def fxToFl2 (sf : Nat) (a : Word × Word) (tick : Nat) : Result2 :=
  let p := dfxmag a.1 a.2
  ⟨flWord tick a.1.c12 (expField (convertedExp sf 22 p)) (convertedSig 22 p / 10 ^ 11),
   fxWord a.2.c12 (convertedSig 22 p % 10 ^ 11), convertedFlags sf 22 p⟩

/-- `50 CX  FL → FX, M = scale factor` (R392). -/
def execCx (o : Fields) (s : State) : Out := outcome (onAcc (fun sf a _ => flToFx sf a) o s)

/-- `51 C  FX → FL, M = scale factor` (R393). -/
def execC (o : Fields) (s : State) : Out := outcome (onAcc fxToFl o s)

/-- `55 CCX  FL' → FX', M = scale factor` (R395). -/
def execCcx (o : Fields) (s : State) : Out := outcome (onAccPair (fun sf a _ => flToFx2 sf a) o s)

/-- `56 CC  FX' → FL', M = scale factor` (R396). -/
def execCc (o : Fields) (s : State) : Out := outcome (onAccPair fxToFl2 o s)

end Sys2Proof.Machine
end

