-- ==== Sys2Proof/Machine/DataTransfer.lean ====
section
/-! DEFINITION. Data transfer (42_data_transfer.md): 40-43, 45-48, 60-64, 93. -/

namespace Sys2Proof.Machine
open Sys2Proof

/-- `NegWord` (R260 (b)): the word a negative store transfers. -/
def negWord (w : Word) (tick slot : Nat) : Word :=
  match cls w.c12 with
  | .z => wordOf .minus (slice w 11 1)
  | .mi => wordOf (.d 0) (slice w 11 1)
  | .p => w
  | .nz => anomalyWord tick slot
  | .ot => anomalyWord tick slot

/-- The S-digit of a negative store that causes the contingency (R260 (b)(i)). -/
def negAnomaly (w : Word) : Bool := decide (cls w.c12 = .nz ∨ cls w.c12 = .ot)

/-- The contingency of a negative store (FF 45 by name, D17). -/
def negRaised (bad : Bool) : List Nat := if bad then [ffSign] else []

/-- `AbsWord` (R260 (c)): sign zero whatever the S-digit is. -/
def absWord (w : Word) : Word := wordOf (.d 0) (slice w 11 1)

/-- A store of one word made from (A) to M (R261 to R263). -/
def storeOne (f : Word → Nat → Word) (bad : Word → Bool) (o : Fields) (s : State) : Res State := do
  let ea ← effM s o
  let a ← regRead s o.a
  let t ← write1 s ea (f a s.tick)
  .ok (t.next.raiseContingency (negRaised (bad a)))

/-- A store of two words made from (A') to M' (R265 to R267): both source words are read before either is written. -/
def storeTwo (f : Word → Nat → Nat → Word) (bad : Word → Bool) (o : Fields) (s : State) : Res State := do
  let ea ← effM s o
  let (h, l) ← getAccPair s o.a
  let t ← write2 s ea (f h s.tick 0) (f l s.tick 1)
  .ok (t.next.raiseContingency (negRaised (bad h || bad l)))

/-- `40 S  (A) → M` (R261). -/
def execS (o : Fields) (s : State) : Out := outcome (storeOne (fun a _ => a) (fun _ => false) o s)

/-- `41 SN  -(A) → M` (R262). -/
def execSn (o : Fields) (s : State) : Out := outcome (storeOne (fun a t => negWord a t 0) negAnomaly o s)

/-- `42 SM  |(A)| → M` (R263). -/
def execSm (o : Fields) (s : State) : Out := outcome (storeOne (fun a _ => absWord a) (fun _ => false) o s)

/-- `43 F  (M) → A` (R264). -/
def execF (o : Fields) (s : State) : Out := outcome do
  let ea ← effM s o
  let m ← read1 s ea
  let _ ← getAcc s o.a
  .ok ((s.setReg o.a m).next)

/-- `45 SS  (A') → M'` (R265). -/
def execSs (o : Fields) (s : State) : Out := outcome (storeTwo (fun a _ _ => a) (fun _ => false) o s)

/-- `46 SSN  -(A') → M'` (R266): each half on its own. -/
def execSsn (o : Fields) (s : State) : Out := outcome (storeTwo negWord negAnomaly o s)

/-- `47 SSM  |(A')| → M'` (R267). -/
def execSsm (o : Fields) (s : State) : Out := outcome (storeTwo (fun a _ _ => absWord a) (fun _ => false) o s)

/-- `48 FF  (M') → A'` (R268). -/
def execFf (o : Fields) (s : State) : Out := outcome do
  let ea ← effM s o
  let (h, l) ← read2 s ea
  let _ ← getAccPair s o.a
  .ok ((s.setPair o.a h l).next)

/-- `ExtractPart(hi, lo)` (R270): positions hi..lo of (M) into (A), the others of (A) unchanged. -/
def extractPart (hi lo : Nat) (o : Fields) (s : State) : Res State := do
  let ea ← effM s o
  let m ← read1 s ea
  let a ← getAcc s o.a
  .ok ((s.setReg o.a (splice a hi lo (slice m hi lo))).next)

/-- `60 EOP  (M)_I → A_I` (R271). -/
def execEop (o : Fields) (s : State) : Out := outcome (extractPart 12 10 o s)

/-- `61 EA  (M)_A → A_A` (R272). -/
def execEa (o : Fields) (s : State) : Out := outcome (extractPart 9 8 o s)

/-- `62 EB  (M)_B → A_B` (R273). -/
def execEb (o : Fields) (s : State) : Out := outcome (extractPart 7 6 o s)

/-- `63 EAB  (M)_AB → A_AB` (R274). -/
def execEab (o : Fields) (s : State) : Out := outcome (extractPart 9 6 o s)

/-- `64 EM  (M)_M → A_M` (R275). -/
def execEm (o : Fields) (s : State) : Out := outcome (extractPart 5 1 o s)

/-- The word `9 90 00 00 mmmmm` that 91 and 93 build: a 90 instruction under selector 9 (R290, 44 R343). -/
def transferWord (m : Nat) : Word := wordOf (.d 9) (dig 2 90 ++ dig 2 0 ++ dig 2 0 ++ dig 5 m)

/-- The word `0 00 00 00 mmmmm` that 93 leaves in a fast register (R290, D41). -/
def linkWord (m : Nat) : Word := wordOf (.d 0) (dig 2 0 ++ dig 2 0 ++ dig 2 0 ++ dig 5 m)

/-- The word 93 stores at the effective address: the second form in a fast register (R290). -/
def sljWord (s : State) (ea : Nat) : Word :=
  match region s.inst ea with
  | .fast _ => linkWord s.c2
  | _ => transferWord s.c2

/-- `93 SLJ  [9T(C2)] → M`, or `(C2) → A_M` when M = 999AA (R290). -/
def execSlj (o : Fields) (s : State) : Out := outcome do
  let ea ← effM s o
  let t ← write1 s ea (sljWord s ea)
  .ok t.next

end Sys2Proof.Machine
end

