-- ==== Sys2Proof/Machine/Display.lean ====
section
/-! DEFINITION. Visual-display-register and miscellaneous instructions (49_display_misc.md): 09 19 29 39, 00 96 97 99. -/

namespace Sys2Proof.Machine
open Sys2Proof

/-- A fetch from a display register is done when Interlock is set; it resets Connect and Interlock (R440, R441). Otherwise
control goes to M. -/
def displayFetch (f : State → Word) (o : Fields) (s : State) : Res State := do
  let ea ← effM s o
  let _ ← getAcc s o.a
  if s.interlock then
    .ok ({ s.setReg o.a (f s) with connect := false, interlock := false }.branch false ea)
  else .ok (s.branch true ea)

/-- A store to a display register is done when Interlock is reset; otherwise control goes to M (R440, R443). -/
def displayStore (f : Word → State → State) (o : Fields) (s : State) : Res State := do
  let ea ← effM s o
  let a ← regRead s o.a
  if s.interlock then .ok (s.branch true ea) else .ok ((f a s).branch false ea)

/-- `09 FV  (5-digit register) → A_M` (R441): what positions 12-6 receive is lost from the source, a draw (D42; log 44). -/
def execFv (o : Fields) (s : State) : Out :=
  outcome (displayFetch (fun s => splice (drawn s.tick 0) 5 1 s.vd5.chars) o s)

/-- `19 FVK  (12-digit register) → A` (R442). -/
def execFvk (o : Fields) (s : State) : Out := outcome (displayFetch (fun s => s.vd12) o s)

/-- `29 SV  (A)_M → 5-digit register` (R443): whether the 12-digit register changes with it is open (R40; log 64). -/
def execSv (o : Fields) (s : State) : Out :=
  outcome (displayStore (fun a s => s.putDisplay5 (Five.ofChars (slice a 5 1))) o s)

/-- `39 SVK  (A) → 12-digit register` (R444): whether the 5-digit register changes with it is open (R40; log 64). -/
def execSvk (o : Fields) (s : State) : Out := outcome (displayStore (fun a s => s.putDisplay12 a) o s)

/-- `00 SK  Skip` (R445): the effective address is formed and nothing else is done. -/
def execSk (o : Fields) (s : State) : Out := outcome do
  let _ ← effM s o
  .ok s.next

/-- `96 RF  Reset FF A` (R446). -/
def execRf (o : Fields) (s : State) : Out := outcome do
  let _ ← effM s o
  if (marksOf o.a).reset then .ok (s.resetFlag o.a).next
  else .error (.refused (.flipFlopOperation o.a))

/-- `97 SF  Set FF A` (R447): no flip-flop a program can set is a member of a master's group. -/
def execSf (o : Fields) (s : State) : Out := outcome do
  let _ ← effM s o
  if (marksOf o.a).set then .ok (s.putFlag o.a true).next
  else .error (.refused (.flipFlopOperation o.a))

/-- `99 H  Stop` (R448): C stays at the address of this instruction (D34). -/
def execH (o : Fields) (s : State) : Out := outcome do
  let _ ← effM s o
  .ok { s with stopped := true }

end Sys2Proof.Machine
end

