-- ==== Sys2Proof/Machine/Extract.lean ====
section
/-! DEFINITION. Extract under a pattern (46_extract.md): 65, 66. -/

namespace Sys2Proof.Machine
open Sys2Proof

/-- `sel(m, i)` in positions 11 to 1: a ONE (R380). -/
def selects (c : Chr) : Bool := decide (c = .d 1)

/-- `sel(m, 12)`: a ONE or a minus sign (R380). -/
def selectsSign (c : Chr) : Bool := decide (c = .d 1 ∨ c = .minus)

/-- One position of the result (R381). -/
def pick (b : Bool) (x a : Chr) : Chr := if b then x else a

/-- The word `a` with the positions the pattern selects taken from `x` (R381). -/
def extract (m x a : Word) : Word :=
  ⟨pick (selectsSign m.c12) x.c12 a.c12, pick (selects m.c11) x.c11 a.c11, pick (selects m.c10) x.c10 a.c10,
   pick (selects m.c9) x.c9 a.c9, pick (selects m.c8) x.c8 a.c8, pick (selects m.c7) x.c7 a.c7,
   pick (selects m.c6) x.c6 a.c6, pick (selects m.c5) x.c5 a.c5, pick (selects m.c4) x.c4 a.c4,
   pick (selects m.c3) x.c3 a.c3, pick (selects m.c2) x.c2 a.c2, pick (selects m.c1) x.c1 a.c1⟩

/-- The masked merge of register `src` into register A under (M) (R381, R382). -/
def extractFrom (src : Nat) (o : Fields) (s : State) : Res State := do
  let ea ← effM s o
  let m ← read1 s ea
  let a ← getAcc s o.a
  let x ← getReg s src
  .ok ((s.setReg o.a (extract m x a)).next)

/-- `65 EL  (A-1) → A under (M)` (R381). -/
def execEl (o : Fields) (s : State) : Out := outcome (extractFrom (o.a - 1) o s)

/-- `66 EU  (A+1) → A under (M)` (R382). -/
def execEu (o : Fields) (s : State) : Out := outcome (extractFrom (o.a + 1) o s)

end Sys2Proof.Machine
end

