-- ==== Sys2Proof/Machine/IndexRegister.lean ====
section
/-! DEFINITION. Index-register modification (48_index_register.md): 80-83, 85, 86. -/

namespace Sys2Proof.Machine
open Sys2Proof

/-- The reduced cycle count: 000 goes to 999 (R422). -/
def reducedCount (w : Word) : Nat := (ixN w + 999) % 1000

/-- The stepped address modifier, Δ + D or Δ - D, where it has five digits (R423). -/
def steppedDelta (sub : Bool) (w : Word) : Option Nat :=
  if sub then (if ixD w ≤ ixDelta w then some (ixDelta w - ixD w) else none)
  else (if ixDelta w + ixD w ≤ 99999 then some (ixDelta w + ixD w) else none)

/-- The index word with its address modifier stepped, NNN and DDDD unchanged (R428, R429). Above 99999 or below 0 the source
does not say what becomes of Δ, or whether DDDD takes a carry: positions 9-1 are free digits (D27; log 36). -/
def stepIndex (sub : Bool) (w : Word) : Word :=
  match steppedDelta sub w with
  | some v => splice w 5 1 (dig 5 v)
  | none => splice w 9 1 (dig 9 (Config.modifierOutOfRange sub (ixDelta w) (ixD w)))

/-- The index word with its cycle count reduced and its address modifier stepped (R424, R425). -/
def countIndex (sub : Bool) (w : Word) : Word := splice (stepIndex sub w) 12 10 (dig 3 (reducedCount w))

/-- 80 to 83: step the register the A-digits name and transfer when `taken` says so of the new count; the effective
address is formed from the old contents (R420, R424, R426). -/
def indexBranch (sub : Bool) (taken : Nat → Bool) (o : Fields) (s : State) : Res State := do
  let ea ← effM s o
  let w ← getAcc s o.a
  .ok ((s.setReg o.a (countIndex sub w)).branch (taken (reducedCount w)) ea)

/-- 85, 86: step the address modifier alone (R428, R429). -/
def indexStep (sub : Bool) (o : Fields) (s : State) : Res State := do
  let _ ← effM s o
  let w ← getAcc s o.a
  .ok ((s.setReg o.a (stepIndex sub w)).next)

/-- `80 BIT`: transfer while the new count is not zero (R424). -/
def execBit (o : Fields) (s : State) : Out := outcome (indexBranch false (fun n => decide (n ≠ 0)) o s)

/-- `81 BDT` (R425). -/
def execBdt (o : Fields) (s : State) : Out := outcome (indexBranch true (fun n => decide (n ≠ 0)) o s)

/-- `82 BIC`: transfer when the new count is zero (R426). -/
def execBic (o : Fields) (s : State) : Out := outcome (indexBranch false (fun n => decide (n = 0)) o s)

/-- `83 BDC` (R427). -/
def execBdc (o : Fields) (s : State) : Out := outcome (indexBranch true (fun n => decide (n = 0)) o s)

/-- `85 BI  Δ+D → Δ` (R428). -/
def execBi (o : Fields) (s : State) : Out := outcome (indexStep false o s)

/-- `86 BD  Δ-D → Δ` (R429). -/
def execBd (o : Fields) (s : State) : Out := outcome (indexStep true o s)

end Sys2Proof.Machine
end

