-- ==== Sys2Proof/Machine/MulDiv.lean ====
section
/-! DEFINITION. Multiplication and division (41_arithmetic_mul_div.md): 20-27 and 30-37. -/

namespace Sys2Proof.Machine
open Sys2Proof

/-! ### Cores -/

/-- `Round(num/den)` (R204): the integer when exact, else the floor or the floor plus one, a free choice (D20; log 27) that
is a function of the rational number, so of the fraction in lowest terms. -/
def roundDiv (num den : Nat) : Nat :=
  num / den +
    (if num % den = 0 then 0
     else if Config.roundsUp (num / Nat.gcd num den) (den / Nat.gcd num den) then 1
     else 0)

/-- A quotient kept whole or rounded (00_scope.md R11, R204). -/
def keep (rounded : Bool) (num den : Nat) : Nat := if rounded then roundDiv num den else num / den

/-- A rounding that carried out of the top digit of `k` (R206, R208). -/
def carryOut (k : Nat) (e : Int) (f : Nat) : Int × Nat := if f = 10 ^ k then (e + 1, 10 ^ (k - 1)) else (e, f)

/-- Is this operand absolute zero: a period as examined sign, exponent 00, significand zero (30_encoding.md R106)? -/
def isAbsoluteZero (sg : Chr) (o : FlOperand) : Bool := decide (sg = .period ∧ o.e = 0 ∧ o.f = 0)

/-- `FlMul` on normalized operands, or where one is absolute zero (R206): exponent and `k`-digit significand. -/
def flMulCore (a m : FlOperand) (n k : Nat) (rounded : Bool) : Int × Nat :=
  let p := a.f * m.f
  let s := if 10 ^ (2 * n - 1) ≤ p then 0 else 1
  let f := keep rounded (p * 10 ^ (s + (k - 2 * n))) (10 ^ (2 * n - k))
  carryOut k ((a.e : Int) + m.e - 50 - s) f

/-- The floating-point product (R206): with a non-normalized factor and no absolute zero the source does not give
exponent and significand (D44; log 30). -/
def flMul (sa sm : Chr) (a m : FlOperand) (n k : Nat) (rounded : Bool) : Int × Nat :=
  if (normalized n a.f && normalized n m.f) || isAbsoluteZero sa a || isAbsoluteZero sm m then
    flMulCore a m n k rounded
  else
    let c := Config.mulNonNormalized a.e a.f m.e m.f n k rounded
    (c.1, c.2 % 10 ^ k)

/-- `FlDiv` on a normalized dividend, or absolute zero, by a normalized divisor (R208). -/
def flDivCore (a m : FlOperand) (n nd k : Nat) (rounded : Bool) : Int × Nat :=
  let up := a.f * 10 ^ nd
  let down := m.f * 10 ^ n
  let s := if up < down then 0 else 1
  let f := keep rounded (up * 10 ^ (k - s)) down
  carryOut k ((a.e : Int) - m.e + 50 + s) f

/-- The floating-point quotient (R208): nothing for a non-normalized divisor; with a non-normalized dividend that is not
absolute zero the source does not give exponent and significand (D44; log 30). -/
def flDiv (sa : Chr) (a m : FlOperand) (n nd k : Nat) (rounded : Bool) : Option (Int × Nat) :=
  if normalized nd m.f then
    if normalized n a.f || isAbsoluteZero sa a then some (flDivCore a m n nd k rounded)
    else
      let c := Config.divNonNormalized a.e a.f m.e m.f n nd k rounded
      some (c.1, c.2 % 10 ^ k)
  else none

/-- `FxDiv` (R207): quotient and remainder of `n` digits; nothing when the dividend is not below the divisor (D24). -/
def fxDiv (p q n : Nat) : Option (Nat × Nat) :=
  if p < q then some (p * 10 ^ n / q, p * 10 ^ n % q) else none

/-! ### Results in one and two words -/

/-- A floating product or quotient in one word, under the signs `sa`, `sm` examined (R202). -/
def mdWord (sa sm : Chr) (c : Int × Nat) (tick : Nat) : Result1 :=
  ⟨flWord tick (mdSign sa sm c.2) (mdExpField (mdPeriod sa sm) c.1) c.2, expFlags c.1 (mdPeriod sa sm)⟩

/-- The same in two words. -/
def mdPair (sa sm : Chr) (c : Int × Nat) (tick : Nat) : Result2 :=
  let w := flPair tick (mdSign sa sm c.2) (mdExpField (mdPeriod sa sm) c.1) c.2
  ⟨w.1, w.2, expFlags c.1 (mdPeriod sa sm)⟩

/-- The sign anomaly on a destination of one word (40_arithmetic_add_sub.md R141). -/
def anomaly1 (tick : Nat) : Result1 := ⟨anomalyWord tick 0, [ffSign]⟩

/-- The sign anomaly on a destination of two words (R141). -/
def anomaly2 (tick : Nat) : Result2 := ⟨anomalyWord tick 0, anomalyWord tick 1, [ffSign]⟩

/-- Fixed-point product, rounded, one word (R205, R220). -/
def fxMulRounded (a m : Word) (tick : Nat) : Result1 :=
  if mdAnomaly a.c12 m.c12 then anomaly1 tick
  else
    let r := roundDiv (fxmag a * fxmag m) (10 ^ 11)
    ⟨fxWord (mdSign a.c12 m.c12 r) r, []⟩

/-- Fixed-point product of two words, all 22 digits (R205, R221). -/
def fxMulExact (a m : Word) (tick : Nat) : Result2 :=
  if mdAnomaly a.c12 m.c12 then anomaly2 tick
  else
    let r := fxmag a * fxmag m
    ⟨(fxPair (mdSign a.c12 m.c12 r) r).1, (fxPair (mdSign a.c12 m.c12 r) r).2, []⟩

/-- Double-precision fixed-point product: the upper 22 of 44 digits; the S-digits of the least significant halves are the
ones examined (R203 (ii), R205, R226). -/
def fxMulPair (a m : Word × Word) (tick : Nat) : Result2 :=
  if mdAnomaly a.2.c12 m.2.c12 then anomaly2 tick
  else
    let r := dfxmag a.1 a.2 * dfxmag m.1 m.2 / 10 ^ 22
    ⟨(fxPair (mdSign a.2.c12 m.2.c12 r) r).1, (fxPair (mdSign a.2.c12 m.2.c12 r) r).2, []⟩

/-- Single-precision floating-point product (R222, R223, R224). -/
def flMul1 (rounded : Bool) (a m : Word) (tick : Nat) : Result1 :=
  if mdAnomaly a.c12 m.c12 then anomaly1 tick
  else mdWord a.c12 m.c12 (flMul a.c12 m.c12 (flOperand a) (flOperand m) 9 9 rounded) tick

/-- Single-precision factors, double-precision floating-point product (R225). -/
def flMulExt (a m : Word) (tick : Nat) : Result2 :=
  if mdAnomaly a.c12 m.c12 then anomaly2 tick
  else mdPair a.c12 m.c12 (flMul a.c12 m.c12 (flOperand a) (flOperand m) 9 20 false) tick

/-- Double-precision floating-point product; least significant S-digits examined (R203 (ii), R227). -/
def flMulPair (a m : Word × Word) (tick : Nat) : Result2 :=
  if mdAnomaly a.2.c12 m.2.c12 then anomaly2 tick
  else mdPair a.2.c12 m.2.c12 (flMul a.2.c12 m.2.c12 (flOperand2 a) (flOperand2 m) 20 20 false) tick

/-- Fixed-point quotient, one word (R230); divide overflow D24. -/
def fxDiv1 (a m : Word) (tick : Nat) : Result1 :=
  if mdAnomaly a.c12 m.c12 then anomaly1 tick
  else match fxDiv (fxmag a) (fxmag m) 11 with
    | none => ⟨drawn tick 0, [ffFixedOver]⟩
    | some (q, _) => ⟨fxWord (mdSign a.c12 m.c12 q) q, []⟩

/-- Fixed-point quotient and remainder; the remainder keeps the dividend's sign (R231, D23). -/
def fxDivRem (a m : Word) (tick : Nat) : Result2 :=
  if mdAnomaly a.c12 m.c12 then anomaly2 tick
  else match fxDiv (fxmag a) (fxmag m) 11 with
    | none => ⟨drawn tick 0, drawn tick 1, [ffFixedOver]⟩
    | some (q, r) => ⟨fxWord (mdSign a.c12 m.c12 q) q, fxWord a.c12 r, []⟩

/-- Double-precision fixed-point quotient; most significant S-digits examined (R203 (i), R235). -/
def fxDivPair (a m : Word × Word) (tick : Nat) : Result2 :=
  if mdAnomaly a.1.c12 m.1.c12 then anomaly2 tick
  else match fxDiv (dfxmag a.1 a.2) (dfxmag m.1 m.2) 22 with
    | none => ⟨drawn tick 0, drawn tick 1, [ffFixedOver]⟩
    | some (q, _) => ⟨(fxPair (mdSign a.1.c12 m.1.c12 q) q).1, (fxPair (mdSign a.1.c12 m.1.c12 q) q).2, []⟩

/-- Single-precision floating-point quotient, rounded (R232, R234); a non-normalized divisor is contingency 41 (R208). -/
def flDiv1 (a m : Word) (tick : Nat) : Result1 :=
  if mdAnomaly a.c12 m.c12 then anomaly1 tick
  else match flDiv a.c12 (flOperand a) (flOperand m) 9 9 9 true with
    | none => ⟨drawn tick 0, [ffDivisor]⟩
    | some c => mdWord a.c12 m.c12 c tick

/-- Double-precision floating-point quotient (R236). -/
def flDivPair (a m : Word × Word) (tick : Nat) : Result2 :=
  if mdAnomaly a.1.c12 m.1.c12 then anomaly2 tick
  else match flDiv a.1.c12 (flOperand2 a) (flOperand2 m) 20 20 20 false with
    | none => ⟨drawn tick 0, drawn tick 1, [ffDivisor]⟩
    | some c => mdPair a.1.c12 m.1.c12 c tick

/-- Double-precision dividend, single-precision divisor (R237). -/
def flDivPairBy (a : Word × Word) (m : Word) (tick : Nat) : Result2 :=
  if mdAnomaly a.1.c12 m.c12 then anomaly2 tick
  else match flDiv a.1.c12 (flOperand2 a) (flOperand m) 20 9 20 false with
    | none => ⟨drawn tick 0, drawn tick 1, [ffDivisor]⟩
    | some c => mdPair a.1.c12 m.c12 c tick

/-! ### The instructions -/

/-- `20 MXR  [(M) x (A)] Rdd → A` (R220). -/
def execMxr (o : Fields) (s : State) : Out := outcome (arithA fxMulRounded o s)

/-- `21 MXE  (M) x (A) → A'` (R221). -/
def execMxe (o : Fields) (s : State) : Out := outcome (arithExt fxMulExact o s)

/-- `22 MR  [(M) ⊗ (A)] Rdd → A` (R222). -/
def execMr (o : Fields) (s : State) : Out := outcome (arithA (flMul1 true) o s)

/-- `23 M  (M) ⊗ (A) → A` (R223). -/
def execM (o : Fields) (s : State) : Out := outcome (arithA (flMul1 false) o s)

/-- `24 MU  (M) ⊗ (A) → A+1` (R224). -/
def execMu (o : Fields) (s : State) : Out := outcome (arithUp (flMul1 false) o s)

/-- `25 ME  (M) ⊗ (A) → A'` (R225). -/
def execMe (o : Fields) (s : State) : Out := outcome (arithExt flMulExt o s)

/-- `26 MMX  (M') x (A') → A'` (R226). -/
def execMmx (o : Fields) (s : State) : Out := outcome (arithPair fxMulPair o s)

/-- `27 MM  (M') ⊗ (A') → A'` (R227). -/
def execMm (o : Fields) (s : State) : Out := outcome (arithPair flMulPair o s)

/-- `30 DX  (A) ÷ (M) → A` (R230). -/
def execDx (o : Fields) (s : State) : Out := outcome (arithA fxDiv1 o s)

/-- `31 DXE  (A) ÷ (M) → A'` (R231). -/
def execDxe (o : Fields) (s : State) : Out := outcome (arithExt fxDivRem o s)

/-- `32 DR  [(A) ⊘ (M)] Rdd → A` (R232). -/
def execDr (o : Fields) (s : State) : Out := outcome (arithA flDiv1 o s)

/-- `34 DUR  [(A) ⊘ (M)] Rdd → A+1` (R234). -/
def execDur (o : Fields) (s : State) : Out := outcome (arithUp flDiv1 o s)

/-- `35 DDX  (A') ÷ (M') → A'` (R235). -/
def execDdx (o : Fields) (s : State) : Out := outcome (arithPair fxDivPair o s)

/-- `36 DD  (A') ⊘ (M') → A'` (R236). -/
def execDd (o : Fields) (s : State) : Out := outcome (arithPair flDivPair o s)

/-- `37 DSE  (A') ⊘ (M) → A'` (R237). -/
def execDse (o : Fields) (s : State) : Out := outcome (arithPairBy flDivPairBy o s)

end Sys2Proof.Machine
end

