-- ==== Sys2Proof/Machine/Shift.lean ====
section
/-! DEFINITION. Shifts by decimal places (45_shift.md): 52, 53, 57, 58, 59. -/

namespace Sys2Proof.Machine
open Sys2Proof

/-- A string moved right `k` places within its width, zeros filled in on the left (R362, R364). -/
def shiftRight (k : Nat) (l : List Chr) : List Chr := zeros (min k l.length) ++ l.take (l.length - k)

/-- A string moved left `k` places within its width, zeros filled in on the right (R363, R365). -/
def shiftLeft (k : Nat) (l : List Chr) : List Chr := l.drop k ++ zeros (min k l.length)

/-- A string rotated left `k` places (R366). -/
def rotateLeft (k : Nat) (l : List Chr) : List Chr := l.drop (k % l.length) ++ l.take (k % l.length)

/-- A one-word shift: the sign character stays (R361). -/
def shiftWord (f : List Chr → List Chr) (a : Word) : Result1 := ⟨wordOf a.c12 (f (slice a 11 1)), []⟩

/-- A two-word shift of the 22 characters below the signs; each sign stays in its word (R361, R364). -/
def shiftPair (f : List Chr → List Chr) (a : Word × Word) : Result2 :=
  let d := f (slice a.1 11 1 ++ slice a.2 11 1)
  ⟨wordOf a.1.c12 (d.take 11), wordOf a.2.c12 (d.drop 11), []⟩

/-- The circular shift of all 24 characters, signs included (R361 (c), R366). -/
def rotatePair (k : Nat) (a : Word × Word) : Result2 :=
  let d := rotateLeft k (a.1.chars ++ a.2.chars)
  ⟨Word.ofChars (d.take 12), Word.ofChars (d.drop 12), []⟩

/-- `52 PR  (A)·10^-M → A` (R362). -/
def execPr (o : Fields) (s : State) : Out := outcome (onAcc (fun k a _ => shiftWord (shiftRight k) a) o s)

/-- `53 PL  (A)·10^M → A` (R363). -/
def execPl (o : Fields) (s : State) : Out := outcome (onAcc (fun k a _ => shiftWord (shiftLeft k) a) o s)

/-- `57 PPR  (A')·10^-M → A'` (R364). -/
def execPpr (o : Fields) (s : State) : Out := outcome (onAccPair (fun k a _ => shiftPair (shiftRight k) a) o s)

/-- `58 PPL  (A')·10^M → A'` (R365). -/
def execPpl (o : Fields) (s : State) : Out := outcome (onAccPair (fun k a _ => shiftPair (shiftLeft k) a) o s)

/-- `59 PPC  (A')·10^M → A'`, circular (R366). -/
def execPpc (o : Fields) (s : State) : Out := outcome (onAccPair (fun k a _ => rotatePair k a) o s)

end Sys2Proof.Machine
end

