-- ==== Sys2Proof/Machine/Transfer.lean ====
section
/-! DEFINITION. Unconditional transfer of control (44_unconditional_transfer.md): 90, 91, 92. -/

namespace Sys2Proof.Machine
open Sys2Proof

/-- `90 T  M → C` (R342). -/
def execT (o : Fields) (s : State) : Out := outcome do
  let ea ← effM s o
  .ok (s.branch true ea)

/-- `91 TR  [9T(C)+1] → M and M+1 → C` (R343). -/
def execTr (o : Fields) (s : State) : Out := outcome do
  let ea ← effM s o
  let t ← write1 s ea (transferWord (succAddr s.inst s.pc))
  .ok (t.branch true (succAddr s.inst ea))

/-- `92 TB  (C) → A_M and M → C` (R344). -/
def execTb (o : Fields) (s : State) : Out := outcome do
  let ea ← effM s o
  let a ← getAcc s o.a
  .ok ((s.setReg o.a (splice a 5 1 (dig 5 s.pc))).branch true ea)

end Sys2Proof.Machine
end

