-- ==== Sys2Proof/Machine/Dispatch.lean ====
section
/-! DEFINITION. Which meaning each instruction has: one arm per constructor, one direct call each. -/

namespace Sys2Proof.Machine
open Sys2Proof

def exec (i : Instr) (s : State) : Host.Outcome State Fault Refusal :=
  match i with
  | .sk o => Sys2Proof.Machine.execSk o s
  | .ax o => Sys2Proof.Machine.execAx o s
  | .a o => Sys2Proof.Machine.execA o s
  | .am o => Sys2Proof.Machine.execAm o s
  | .au o => Sys2Proof.Machine.execAu o s
  | .aax o => Sys2Proof.Machine.execAax o s
  | .aa o => Sys2Proof.Machine.execAa o s
  | .fv o => Sys2Proof.Machine.execFv o s
  | .nx o => Sys2Proof.Machine.execNx o s
  | .n o => Sys2Proof.Machine.execN o s
  | .nu o => Sys2Proof.Machine.execNu o s
  | .nnx o => Sys2Proof.Machine.execNnx o s
  | .nn o => Sys2Proof.Machine.execNn o s
  | .fvk o => Sys2Proof.Machine.execFvk o s
  | .mxr o => Sys2Proof.Machine.execMxr o s
  | .mxe o => Sys2Proof.Machine.execMxe o s
  | .mr o => Sys2Proof.Machine.execMr o s
  | .m o => Sys2Proof.Machine.execM o s
  | .mu o => Sys2Proof.Machine.execMu o s
  | .me o => Sys2Proof.Machine.execMe o s
  | .mmx o => Sys2Proof.Machine.execMmx o s
  | .mm o => Sys2Proof.Machine.execMm o s
  | .sv o => Sys2Proof.Machine.execSv o s
  | .dx o => Sys2Proof.Machine.execDx o s
  | .dxe o => Sys2Proof.Machine.execDxe o s
  | .dr o => Sys2Proof.Machine.execDr o s
  | .dur o => Sys2Proof.Machine.execDur o s
  | .ddx o => Sys2Proof.Machine.execDdx o s
  | .dd o => Sys2Proof.Machine.execDd o s
  | .dse o => Sys2Proof.Machine.execDse o s
  | .svk o => Sys2Proof.Machine.execSvk o s
  | .s o => Sys2Proof.Machine.execS o s
  | .sn o => Sys2Proof.Machine.execSn o s
  | .sm o => Sys2Proof.Machine.execSm o s
  | .f o => Sys2Proof.Machine.execF o s
  | .ss o => Sys2Proof.Machine.execSs o s
  | .ssn o => Sys2Proof.Machine.execSsn o s
  | .ssm o => Sys2Proof.Machine.execSsm o s
  | .ff o => Sys2Proof.Machine.execFf o s
  | .cx o => Sys2Proof.Machine.execCx o s
  | .c o => Sys2Proof.Machine.execC o s
  | .pr o => Sys2Proof.Machine.execPr o s
  | .pl o => Sys2Proof.Machine.execPl o s
  | .ccx o => Sys2Proof.Machine.execCcx o s
  | .cc o => Sys2Proof.Machine.execCc o s
  | .ppr o => Sys2Proof.Machine.execPpr o s
  | .ppl o => Sys2Proof.Machine.execPpl o s
  | .ppc o => Sys2Proof.Machine.execPpc o s
  | .eop o => Sys2Proof.Machine.execEop o s
  | .ea o => Sys2Proof.Machine.execEa o s
  | .eb o => Sys2Proof.Machine.execEb o s
  | .eab o => Sys2Proof.Machine.execEab o s
  | .em o => Sys2Proof.Machine.execEm o s
  | .el o => Sys2Proof.Machine.execEl o s
  | .eu o => Sys2Proof.Machine.execEu o s
  | .te o => Sys2Proof.Machine.execTe o s
  | .tg o => Sys2Proof.Machine.execTg o s
  | .tz o => Sys2Proof.Machine.execTz o s
  | .tgz o => Sys2Proof.Machine.execTgz o s
  | .tlz o => Sys2Proof.Machine.execTlz o s
  | .tte o => Sys2Proof.Machine.execTte o s
  | .ttg o => Sys2Proof.Machine.execTtg o s
  | .bit o => Sys2Proof.Machine.execBit o s
  | .bdt o => Sys2Proof.Machine.execBdt o s
  | .bic o => Sys2Proof.Machine.execBic o s
  | .bdc o => Sys2Proof.Machine.execBdc o s
  | .bi o => Sys2Proof.Machine.execBi o s
  | .bd o => Sys2Proof.Machine.execBd o s
  | .t o => Sys2Proof.Machine.execT o s
  | .tr o => Sys2Proof.Machine.execTr o s
  | .tb o => Sys2Proof.Machine.execTb o s
  | .slj o => Sys2Proof.Machine.execSlj o s
  | .tf o => Sys2Proof.Machine.execTf o s
  | .rf o => Sys2Proof.Machine.execRf o s
  | .sf o => Sys2Proof.Machine.execSf o s
  | .h o => Sys2Proof.Machine.execH o s

end Sys2Proof.Machine
end

