-- ==== Sys2Proof/WellFormed.lean ====
section
/-! DEFINITION. Which instructions an instruction word can carry: every field within the digits of its positions
(30_encoding.md R90, R91). -/

namespace Sys2Proof

/-- A tracing-mode selector is one of 1 to 9 (30_encoding.md R91). -/
def TDigit.wellFormed : TDigit → Bool
  | .untraced => true
  | .selector t => decide (1 ≤ t) && decide (t ≤ 9)

/-- Two A-digits, two B-digits, five M-digits (30_encoding.md R90). -/
def Fields.wellFormed (o : Fields) : Bool :=
  o.t.wellFormed && decide (o.a ≤ 99) && decide (o.b ≤ 99) && decide (o.m ≤ 99999)

/-- An instruction is well formed when its fields are. -/
def Instr.wellFormed (i : Instr) : Bool := i.fields.wellFormed

end Sys2Proof
end

