-- ==== Sys2Proof/Decode.lean ====
section
/-! DEFINITION. From a word to an instruction and back (30_encoding.md R90 to R95, R110, R111). -/

namespace Sys2Proof
open Sys2Proof.Machine

/-- What an instruction word is, in the order of the checks of 30_encoding.md R98. -/
inductive Decoded where
  /-- One of the 76 instructions. -/
  | instr (i : Instr)
  /-- The T-digit is not a period, 1-9 or the ignore sign: the error routine (R94). -/
  | illegalT
  /-- The T-digit is the ignore sign: the indirect-addressing mode (R91, R488). -/
  | indirect
  /-- A character of positions 11-1 is not numeric (R95). -/
  | nonNumeric
  /-- The instruction number is one of the 24 unassigned ones (R111). -/
  | unassigned (n : Nat)
  deriving DecidableEq, Repr

/-- What the T-digit says (30_encoding.md R91). -/
inductive TReading where
  | legal (t : TDigit)
  | ignoreSign
  | illegal
  deriving DecidableEq, Repr

/-- Reading of the T-digit: a period, a selector 1-9, the ignore sign, or anything else, which is illegal (R91, R94). -/
def readT : Chr → TReading
  | .period => .legal .untraced
  | .d n => if n = 0 then .illegal else .legal (.selector n.val)
  | .ignore => .ignoreSign
  | .minus => .illegal
  | .other _ => .illegal

/-- The instruction with number `n`, where one is assigned (30_encoding.md R110, R111). -/
def instrOfNumber (n : Nat) (o : Fields) : Option Instr :=
  match n with
  | 0 => some (.sk o)
  | 1 => some (.ax o)
  | 2 => some (.a o)
  | 3 => some (.am o)
  | 4 => some (.au o)
  | 5 => some (.aax o)
  | 6 => some (.aa o)
  | 9 => some (.fv o)
  | 11 => some (.nx o)
  | 12 => some (.n o)
  | 14 => some (.nu o)
  | 15 => some (.nnx o)
  | 16 => some (.nn o)
  | 19 => some (.fvk o)
  | 20 => some (.mxr o)
  | 21 => some (.mxe o)
  | 22 => some (.mr o)
  | 23 => some (.m o)
  | 24 => some (.mu o)
  | 25 => some (.me o)
  | 26 => some (.mmx o)
  | 27 => some (.mm o)
  | 29 => some (.sv o)
  | 30 => some (.dx o)
  | 31 => some (.dxe o)
  | 32 => some (.dr o)
  | 34 => some (.dur o)
  | 35 => some (.ddx o)
  | 36 => some (.dd o)
  | 37 => some (.dse o)
  | 39 => some (.svk o)
  | 40 => some (.s o)
  | 41 => some (.sn o)
  | 42 => some (.sm o)
  | 43 => some (.f o)
  | 45 => some (.ss o)
  | 46 => some (.ssn o)
  | 47 => some (.ssm o)
  | 48 => some (.ff o)
  | 50 => some (.cx o)
  | 51 => some (.c o)
  | 52 => some (.pr o)
  | 53 => some (.pl o)
  | 55 => some (.ccx o)
  | 56 => some (.cc o)
  | 57 => some (.ppr o)
  | 58 => some (.ppl o)
  | 59 => some (.ppc o)
  | 60 => some (.eop o)
  | 61 => some (.ea o)
  | 62 => some (.eb o)
  | 63 => some (.eab o)
  | 64 => some (.em o)
  | 65 => some (.el o)
  | 66 => some (.eu o)
  | 70 => some (.te o)
  | 71 => some (.tg o)
  | 72 => some (.tz o)
  | 73 => some (.tgz o)
  | 74 => some (.tlz o)
  | 75 => some (.tte o)
  | 76 => some (.ttg o)
  | 80 => some (.bit o)
  | 81 => some (.bdt o)
  | 82 => some (.bic o)
  | 83 => some (.bdc o)
  | 85 => some (.bi o)
  | 86 => some (.bd o)
  | 90 => some (.t o)
  | 91 => some (.tr o)
  | 92 => some (.tb o)
  | 93 => some (.slj o)
  | 95 => some (.tf o)
  | 96 => some (.rf o)
  | 97 => some (.sf o)
  | 99 => some (.h o)
  | _ => none

/-- The fields of an instruction word `T II AA BB MMMMM` under a legal T-digit (30_encoding.md R90). -/
def fieldsOf (t : TDigit) (w : Word) : Fields :=
  ⟨t, num (slice w 9 8), num (slice w 7 6), num (slice w 5 1)⟩

/-- The word below its T-digit, once that is legal: non-numeric characters first, then the instruction number (R95, R111). -/
def decodeBody (t : TDigit) (w : Word) : Decoded :=
  if (slice w 11 1).all isNum then
    match instrOfNumber (num (slice w 11 10)) (fieldsOf t w) with
    | some i => .instr i
    | none => .unassigned (num (slice w 11 10))
  else .nonNumeric

/-- Decoding of any word; every word that is no instruction is rejected by name. -/
def decode (w : Word) : Decoded :=
  match readT w.c12 with
  | .illegal => .illegalT
  | .ignoreSign => .indirect
  | .legal t => decodeBody t w

/-- The T-digit's character. -/
def encodeT : TDigit → Chr
  | .untraced => .period
  | .selector t => digitChr t

/-- The one word of an instruction: `T II AA BB MMMMM` (30_encoding.md R90, R110). -/
def encode (i : Instr) : Word :=
  wordOf (encodeT i.fields.t) (dig 2 i.number ++ dig 2 i.fields.a ++ dig 2 i.fields.b ++ dig 5 i.fields.m)

/-- The character that four bits name in `decodeTableWord`'s numbering. The spec has no binary code of a character
(00_scope.md R2, D1): this one is only the host's probe's (DESIGN CHOICE, log 12): 0-9 the digits, 10 the minus sign,
11 the period, 12 the ignore sign, 13-15 further characters. -/
def chrOfNibble (v : Nat) : Chr :=
  if v < 10 then digitChr v
  else if v = 10 then .minus
  else if v = 11 then .period
  else if v = 12 then .ignore
  else .other (v - 13)

/-- The word whose digit position p stands in bits 4p-1 .. 4p-4 of `w`, bits at and above `nbits` being 0 (log 12). -/
def wordOfBits (nbits w : Nat) : Word :=
  let v := w % 2 ^ nbits
  Word.ofChars ((List.range 12).map fun j => chrOfNibble (v / 16 ^ (11 - j) % 16))

/-- The instruction the decoder reads from the word that `w` numbers (log 12). -/
def decodeTableWord (nbits w : Nat) : Option Instr :=
  match decode (wordOfBits nbits w) with
  | .instr i => some i
  | _ => none

end Sys2Proof
end

