-- ==== Sys2Proof/Machine/Fetch.lean ====
section
/-! DEFINITION. Fetching an instruction word, the check of its tracing selector, and placing a word where it is fetched. -/

namespace Sys2Proof.Machine
open Sys2Proof

/-- One of the last PREFETCH instructions wrote the word at C (20_memory.md R78, D32); with PREFETCH = 0 none did. -/
def prefetched (s : State) : Bool := (s.written.take s.inst.prefetch).any (fun l => l.contains s.pc)

/-- Instruction fetch at C (30_encoding.md R98): from core or a fast register (20_memory.md R68, D29), not from 99900
(R63, D5), and not from a word that was written within the last PREFETCH instructions (R78). -/
def fetch (s : State) : Res Word :=
  if prefetched s then .error (.refused (.prefetched s.pc))
  else
    match region s.inst s.pc with
    | .constant => .error (.refused .constantFetch)
    | _ => read1 s s.pc

/-- The selector t of a word that the tracing mode concerns: FF 20 or FF 20+t is set (60_exceptions.md R486, D12;
log 16). -/
def tracedBy (s : State) (w : Word) : Option Nat :=
  match readT w.c12 with
  | .legal (.selector t) => if s.flag 20 || s.flag (20 + t) then some t else none
  | _ => none

/-- May an instruction be fetched at this address? -/
def fetchable (i : Installation) (a : Nat) : Bool :=
  match region i a with
  | .core => true
  | .fast _ => true
  | .constant => false
  | .unmapped => false

/-- A word placed where the next fetch is made; where C names no place that holds a word, C is put at 00000 first. -/
def State.placeWord (s : State) (w : Word) : State :=
  if fetchable s.inst s.pc then s.store s.pc w else { s with pc := 0 }.store 0 w

end Sys2Proof.Machine
end

