-- ==== Sys2Proof/Machine/Unstated.lean ====
section
/-! DEFINITION. The situations in which the spec states no result of an instruction and therefore refuses it (00_scope.md R9):
named by their decision of 92_eei_decisions.md, in the order in which a rule meets them. The spec's reading refuses them, the
other runs the instruction with a free value (log 63). -/

namespace Sys2Proof.Machine
open Sys2Proof

/-- D28, D9: an index register's five low characters are not all numeric; M + Δ exceeds 99999 (30_encoding.md R96). -/
def unstatedIndex (o : Fields) (s : State) : Option Nat :=
  if o.b = 0 then none
  else if !(slice (s.reg o.b) 5 1).all isNum then some 28
  else if 99999 < o.m + ixDelta (s.reg o.b) then some 9
  else none

/-- D30: there is no `(C)+1` (10_state.md R27); 99 alone does not step C. -/
def unstatedNext (i : Instr) (s : State) : Option Nat :=
  match i with
  | .h _ => none
  | _ => if sameRegion s.inst s.pc then none else some 30

/-- D40: a magnitude position of a word holds a character that is not numeric (40_arithmetic_add_sub.md R140). -/
def unstatedMagnitude (ws : List Word) : Option Nat :=
  if ws.all (fun w => (slice w 11 1).all isNum) then none else some 40

/-- D40, D38: single-precision fixed-point addition and subtraction, under a plan (R142). -/
def unstatedFixedSum (a m : Word) : Option Nat :=
  match fxPlan a.c12 m.c12 false false with
  | none => none
  | some (.numericSign _) => some 38
  | some _ => unstatedMagnitude [a, m]

/-- D40 where the signs are no anomaly: nothing is computed under one (60_exceptions.md R481). -/
def unstatedUnder (anomaly : Bool) (ws : List Word) : Option Nat := if anomaly then none else unstatedMagnitude ws

/-- D40, D44: a floating-point product of the words `ws`, whose examined signs and operands are these (41 R206). -/
def unstatedProduct (sa sm : Chr) (a m : FlOperand) (n : Nat) (ws : List Word) : Option Nat :=
  (unstatedUnder (mdAnomaly sa sm) ws).or
    (if mdAnomaly sa sm || (normalized n a.f && normalized n m.f) || isAbsoluteZero sa a || isAbsoluteZero sm m then none
     else some 44)

/-- D40, D44: a floating-point quotient; a non-normalized divisor is a contingency, not this (41 R208, D24). -/
def unstatedQuotient (sa sm : Chr) (a m : FlOperand) (n nd : Nat) (ws : List Word) : Option Nat :=
  (unstatedUnder (mdAnomaly sa sm) ws).or
    (if mdAnomaly sa sm || !normalized nd m.f || normalized n a.f || isAbsoluteZero sa a then none else some 44)

/-- D40 in a comparison of two words, which a sign may block (43 R302, R303). -/
def unstatedCompare (blocked : Bool) (u w : Word) : Option Nat := unstatedUnder blocked [u, w]

/-- D40, D49: a conversion to fixed point (47 R392, R395). -/
def unstatedToFixed (sf e : Nat) (ws : List Word) : Option Nat :=
  (unstatedMagnitude ws).or (if sf < e then some 49 else none)

/-- D28, D27: an index word that is to be stepped (48 R421, R423). -/
def unstatedStep (sub : Bool) (w : Word) : Option Nat :=
  if !(slice w 12 1).all isNum then some 28
  else if (steppedDelta sub w).isNone then some 27
  else none

/-- The operands of the instruction, its effective address being `ea`. -/
def unstatedOperands (i : Instr) (s : State) (ea : Nat) : Option Nat :=
  let m := s.load ea
  let m1 := s.load (ea + 1)
  match i with
  | .ax o | .nx o => unstatedFixedSum (s.reg o.a) m
  | .a o | .au o | .n o | .nu o =>
    unstatedUnder (flPlan (s.reg o.a).c12 m.c12 false).isNone [s.reg o.a, m]
  | .am o => unstatedUnder (flPlan (s.reg o.a).c12 (.d 0) false).isNone [s.reg o.a, m]
  | .aax o | .nnx o =>
    unstatedUnder (fxPlan (s.reg o.a).c12 m.c12 false true).isNone [s.reg o.a, s.reg (o.a + 1), m, m1]
  | .aa o | .nn o =>
    unstatedUnder (flPlan (s.reg o.a).c12 m.c12 false).isNone [s.reg o.a, s.reg (o.a + 1), m, m1]
  | .mxr o | .mxe o | .dx o | .dxe o => unstatedUnder (mdAnomaly (s.reg o.a).c12 m.c12) [s.reg o.a, m]
  | .mmx o =>
    unstatedUnder (mdAnomaly (s.reg (o.a + 1)).c12 m1.c12) [s.reg o.a, s.reg (o.a + 1), m, m1]
  | .ddx o => unstatedUnder (mdAnomaly (s.reg o.a).c12 m.c12) [s.reg o.a, s.reg (o.a + 1), m, m1]
  | .mr o | .m o | .mu o | .me o =>
    unstatedProduct (s.reg o.a).c12 m.c12 (flOperand (s.reg o.a)) (flOperand m) 9 [s.reg o.a, m]
  | .mm o =>
    unstatedProduct (s.reg (o.a + 1)).c12 m1.c12 (flOperand2 (s.reg o.a, s.reg (o.a + 1))) (flOperand2 (m, m1)) 20
      [s.reg o.a, s.reg (o.a + 1), m, m1]
  | .dr o | .dur o =>
    unstatedQuotient (s.reg o.a).c12 m.c12 (flOperand (s.reg o.a)) (flOperand m) 9 9 [s.reg o.a, m]
  | .dd o =>
    unstatedQuotient (s.reg o.a).c12 m.c12 (flOperand2 (s.reg o.a, s.reg (o.a + 1))) (flOperand2 (m, m1)) 20 20
      [s.reg o.a, s.reg (o.a + 1), m, m1]
  | .dse o =>
    unstatedQuotient (s.reg o.a).c12 m.c12 (flOperand2 (s.reg o.a, s.reg (o.a + 1))) (flOperand m) 20 9
      [s.reg o.a, s.reg (o.a + 1), m]
  | .te o | .tg o =>
    unstatedCompare (blocks (s.reg o.a) || blocks (s.reg (o.a + 1))) (s.reg o.a) (s.reg (o.a + 1))
  | .tz o => unstatedUnder (decide (cls (s.reg o.a).c12 = .nz ∨ cls (s.reg o.a).c12 = .ot)) [s.reg o.a]
  | .tgz o => unstatedUnder (!decide (cls (s.reg o.a).c12 = .z ∨ cls (s.reg o.a).c12 = .p)) [s.reg o.a]
  | .ttg o =>
    let blocked := blocks (s.reg o.a) || blocks (s.reg (o.a + 1)) || blocks (s.reg (o.a + 2)) || blocks (s.reg (o.a + 3))
    (unstatedCompare blocked (s.reg o.a) (s.reg (o.a + 2))).or
      (if cmpWords (s.reg o.a) (s.reg (o.a + 2)) = .eq then
        unstatedCompare blocked (s.reg (o.a + 1)) (s.reg (o.a + 3)) else none)
  | .cx o => unstatedToFixed (countOf ea) (flexp (s.reg o.a)) [s.reg o.a]
  | .ccx o => unstatedToFixed (countOf ea) (flexp (s.reg o.a)) [s.reg o.a, s.reg (o.a + 1)]
  | .c o => unstatedMagnitude [s.reg o.a]
  | .cc o => unstatedMagnitude [s.reg o.a, s.reg (o.a + 1)]
  | .bit o | .bic o | .bi o => unstatedStep false (s.reg o.a)
  | .bdt o | .bdc o | .bd o => unstatedStep true (s.reg o.a)
  | .tr _ => if sameRegion s.inst ea then none else some 30
  | .tlz _ | .tte _ | .tf _ | .t _ | .tb _ | .slj _ => none
  | .s _ | .sn _ | .sm _ | .ss _ | .ssn _ | .ssm _ | .f _ | .ff _ => none
  | .eop _ | .ea _ | .eb _ | .eab _ | .em _ | .el _ | .eu _ => none
  | .pr _ | .pl _ | .ppr _ | .ppl _ | .ppc _ => none
  | .fv _ | .fvk _ | .sv _ | .svk _ | .sk _ | .rf _ | .sf _ | .h _ => none

/-- The decision under which the spec refuses this instruction in this state, if it does. -/
def unstated (i : Instr) (s : State) : Option Nat :=
  ((unstatedIndex i.fields s).or (unstatedNext i s)).or
    (match effM s i.fields with
     | .ok ea => unstatedOperands i s ea
     | .error _ => none)

end Sys2Proof.Machine
end

