-- ==== Sys2Proof/Machine/Writes.lean ====
section
/-! DEFINITION. Which fast registers and storage words each instruction writes, and the record of them that PREFETCH needs
(20_memory.md R68, R78). -/

namespace Sys2Proof.Machine
open Sys2Proof

/-- The fast registers an instruction writes through its A-digits (10_state.md R24). -/
def writtenRegs : Instr → List Nat
  | .ax o | .a o | .am o | .nx o | .n o => [o.a]
  | .au o | .nu o => [o.a + 1]
  | .aax o | .aa o | .nnx o | .nn o => [o.a, o.a + 1]
  | .mxr o | .mr o | .m o => [o.a]
  | .mu o => [o.a + 1]
  | .mxe o | .me o | .mmx o | .mm o => [o.a, o.a + 1]
  | .dx o | .dr o => [o.a]
  | .dur o => [o.a + 1]
  | .dxe o | .ddx o | .dd o | .dse o => [o.a, o.a + 1]
  | .s _ | .sn _ | .sm _ | .ss _ | .ssn _ | .ssm _ => []
  | .f o => [o.a]
  | .ff o => [o.a, o.a + 1]
  | .cx o | .c o | .pr o | .pl o => [o.a]
  | .ccx o | .cc o | .ppr o | .ppl o | .ppc o => [o.a, o.a + 1]
  | .eop o | .ea o | .eb o | .eab o | .em o | .el o | .eu o => [o.a]
  | .te _ | .tg _ | .tz _ | .tgz _ | .tlz _ | .tte _ | .ttg _ | .tf _ => []
  | .bit o | .bdt o | .bic o | .bdc o | .bi o | .bd o => [o.a]
  | .t _ | .tr _ | .slj _ => []
  | .tb o => [o.a]
  | .fv o | .fvk o => [o.a]
  | .sv _ | .svk _ => []
  | .sk _ | .rf _ | .sf _ | .h _ => []

/-- How many storage words an instruction writes, from its effective address on (20_memory.md R68). -/
def storedWords : Instr → Nat
  | .s _ | .sn _ | .sm _ | .tr _ | .slj _ => 1
  | .ss _ | .ssn _ | .ssm _ => 2
  | .ax _ | .a _ | .am _ | .au _ | .aax _ | .aa _ | .nx _ | .n _ | .nu _ | .nnx _ | .nn _ => 0
  | .mxr _ | .mxe _ | .mr _ | .m _ | .mu _ | .me _ | .mmx _ | .mm _ => 0
  | .dx _ | .dxe _ | .dr _ | .dur _ | .ddx _ | .dd _ | .dse _ => 0
  | .f _ | .ff _ | .cx _ | .c _ | .ccx _ | .cc _ | .pr _ | .pl _ | .ppr _ | .ppl _ | .ppc _ => 0
  | .eop _ | .ea _ | .eb _ | .eab _ | .em _ | .el _ | .eu _ => 0
  | .te _ | .tg _ | .tz _ | .tgz _ | .tlz _ | .tte _ | .ttg _ | .tf _ => 0
  | .bit _ | .bdt _ | .bic _ | .bdc _ | .bi _ | .bd _ => 0
  | .t _ | .tb _ | .fv _ | .fvk _ | .sv _ | .svk _ | .sk _ | .rf _ | .sf _ | .h _ => 0

/-- The instruction writes what it names: all do but the fetches 09 and 19, which with Interlock reset only transfer control
(49_display_misc.md R440). -/
def writesRegs (i : Instr) (s : State) : Bool :=
  match i with
  | .fv _ | .fvk _ => s.interlock
  | _ => true

/-- The storage addresses an instruction writes: from its effective address on, and those of the fast registers its A-digits
name (R68; register r is 999rr, R62). -/
def writtenAddresses (i : Instr) (s : State) : List Nat :=
  (if writesRegs i s then (writtenRegs i).map (fun r => 99900 + r) else []) ++
    match effM s i.fields with
    | .ok ea => List.range' ea (storedWords i)
    | .error _ => []

/-- The record after instruction `i` took `s` to `t`: what the last PREFETCH instructions wrote (R78, D32). -/
def State.noteWrites (t : State) (i : Instr) (s : State) : State :=
  { t with written := (writtenAddresses i s :: s.written).take s.inst.prefetch }

end Sys2Proof.Machine
end

