-- ==== Sys2Proof/Machine/Cycle.lean ====
section
/-! DEFINITION. The instruction cycle of the computing unit (30_encoding.md R98). -/

namespace Sys2Proof.Machine
open Sys2Proof

/-- The end of an instruction that ran: what it wrote is recorded (20_memory.md R78), and where the spec states no result for
these operands, the step is refused (00_scope.md R9), unless State.inst asks for the reading that lets it go on with a free
value (log 63). -/
def settle (i : Instr) (s : State) (r : Out) : Out :=
  match r with
  | .next t =>
    match unstated i s with
    | none => .next (t.noteWrites i s)
    | some d => if s.inst.strict then .refused (.unstated d) else .next (t.noteWrites i s)
  | .fault f => .fault f
  | .refused f => .refused f

/-- What the unit does with a fetched word, in the order of R98: the T-digit (R94, R477: error 49, the word is not
executed), the tracing mode (D12), the other characters (R95), the instruction number (R111), then the instruction. -/
def runWord (w : Word) (s : State) : Out :=
  match tracedBy s w with
  | some t => .refused (.tracingMode t)
  | none =>
    match decode w with
    | .instr i => settle i s (exec i s)
    | .illegalT => .next (s.raise .error [ffDecoding])
    | .indirect => .refused .indirectAddressing
    | .nonNumeric => .refused .nonNumericField
    | .unassigned n => .fault (.illegalInstruction n)

/-- One turn of the computing unit: none when it is stopped (10_state.md R44); the transfer of control to a routine when an
event was raised (60_exceptions.md R472); else one instruction (R98). -/
def cuTurn (s : State) : Out :=
  if s.stopped then .fault .stopped
  else
    match s.trap with
    | some t => .next (s.enterRoutine t)
    | none =>
      match fetch s with
      | .error e => outcome (.error e)
      | .ok w => runWord w s

/-- The count of turns advanced, so that the free values of this turn are fresh (log 11). -/
def State.turn (s : State) : State := { s with tick := s.tick + 1 }

end Sys2Proof.Machine
end

