-- ==== Sys2Proof/Machine/Step.lean ====
section
/-! DEFINITION. One step: a move of another agent, or a turn of the computing unit, as the schedule says; and the state with
an instruction placed where the next step fetches. -/

namespace Sys2Proof.Machine
open Sys2Proof

/-- One step. With an empty schedule the computing unit has every turn (20_memory.md R76, 60_exceptions.md R494; log 15). -/
def step (s : State) : Host.Outcome State Fault Refusal :=
  match s.schedule with
  | [] => cuTurn s.turn
  | none :: rest => cuTurn { s with schedule := rest }.turn
  | some m :: rest => .next ({ s with schedule := rest }.applyMove m)

/-- `s` with the instruction word that `w` numbers (log 12) where the next step fetches, and with nothing between that step
and the fetch: the unit running, no event pending, nothing written just before, its turn (log 13). -/
def State.withFetchWord (s : State) (nbits w : Nat) : State :=
  { s.placeWord (wordOfBits nbits w) with stopped := false, trap := none, written := [], schedule := [] }

end Sys2Proof.Machine
end

