-- ==== Sys2Proof/Safety.lean ====
section
/-! DEFINITION. The words the statements use: a step that goes on, which flip-flops each instruction may write, when its
operands are there, and the numbers its results stand for. -/

namespace Sys2Proof.Machine
open Sys2Proof

/-- The step goes on: it ends in a next state. -/
def goesOn (r : Out) : Bool :=
  match r with
  | .next _ => true
  | .fault _ => false
  | .refused _ => false

/-! ### What an instruction may raise -/

/-- The contingencies an instruction can raise (60_exceptions.md R471). -/
def raisable : Instr → List Nat
  | .ax _ | .aax _ | .nx _ | .nnx _ => [44, 45]
  | .a _ | .am _ | .au _ | .aa _ | .n _ | .nu _ | .nn _ => [40, 42, 43, 45]
  | .mxr _ | .mxe _ | .mmx _ => [45]
  | .mr _ | .m _ | .mu _ | .me _ | .mm _ => [42, 43, 45]
  | .dx _ | .dxe _ | .ddx _ => [44, 45]
  | .dr _ | .dur _ | .dd _ | .dse _ => [41, 42, 43, 45]
  | .sn _ | .ssn _ => [45]
  | .c _ | .cc _ => [40, 43]
  | .te _ | .tg _ | .tz _ | .tgz _ | .tlz _ | .tte _ | .ttg _ => [45]
  | .s _ | .sm _ | .ss _ | .ssm _ | .f _ | .ff _ | .cx _ | .ccx _ => []
  | .pr _ | .pl _ | .ppr _ | .ppl _ | .ppc _ => []
  | .eop _ | .ea _ | .eb _ | .eab _ | .em _ | .el _ | .eu _ => []
  | .bit _ | .bdt _ | .bic _ | .bdc _ | .bi _ | .bd _ => []
  | .t _ | .tr _ | .tb _ | .slj _ | .tf _ => []
  | .fv _ | .fvk _ | .sv _ | .svk _ | .sk _ | .rf _ | .sf _ | .h _ => []

/-- The flip-flops an instruction may change: those of its contingencies with their master FF 99; for 96 the one its
A-digits name, 71 to 82 and the masters; for 97 the one its A-digits name (60_exceptions.md R471, R480; 49_display_misc.md
R446, R447). -/
def flagsWritten (i : Instr) : List Nat :=
  match i with
  | .rf o => o.a :: 98 :: 99 :: digitFlags
  | .sf o => [o.a]
  | _ => if raisable i = [] then [] else 99 :: raisable i

/-- The set XFER: the instructions that could cause a transfer of control (10_state.md R30). -/
def inXfer : Instr → Bool
  | .fv _ | .fvk _ | .sv _ | .svk _ => true
  | .te _ | .tg _ | .tz _ | .tgz _ | .tlz _ | .tte _ | .ttg _ | .tf _ => true
  | .bit _ | .bdt _ | .bic _ | .bdc _ => true
  | .t _ | .tr _ | .tb _ => true
  | .ax _ | .a _ | .am _ | .au _ | .aax _ | .aa _ | .nx _ | .n _ | .nu _ | .nnx _ | .nn _ => false
  | .mxr _ | .mxe _ | .mr _ | .m _ | .mu _ | .me _ | .mmx _ | .mm _ => false
  | .dx _ | .dxe _ | .dr _ | .dur _ | .ddx _ | .dd _ | .dse _ => false
  | .s _ | .sn _ | .sm _ | .ss _ | .ssn _ | .ssm _ | .f _ | .ff _ => false
  | .cx _ | .c _ | .ccx _ | .cc _ | .pr _ | .pl _ | .ppr _ | .ppl _ | .ppc _ => false
  | .eop _ | .ea _ | .eb _ | .eab _ | .em _ | .el _ | .eu _ => false
  | .bi _ | .bd _ | .slj _ | .sk _ | .rf _ | .sf _ | .h _ => false

/-- Where an instruction of XFER transfers control: the effective address, for 91 the next one (10_state.md R28). -/
def transferTarget (i : Instr) (s : State) (ea : Nat) : Nat :=
  match i with
  | .tr _ => succAddr s.inst ea
  | _ => ea

/-- Contingency `k`, and with it those of `more`, came to be raised between `s` and `t`: every one of them and FF 99 is set,
all other flip-flops are as they were, and the outcome is Trap(contingency, k) (60_exceptions.md R472, R480, R481). -/
def raisedAs (s t : State) (k : Nat) (more : List Nat) : Prop :=
  t.trap = some ⟨.contingency, k⟩ ∧ ∀ j, t.flag j = (s.flag j || decide (j = k ∨ j ∈ more ∨ j = 99))

/-- The sequence goes on with the next instruction and C2 is left alone (10_state.md R27, R30). -/
def inSequence (s t : State) : Prop := t.pc = succAddr s.inst s.pc ∧ t.c2 = s.c2

/-! ### When the operands are there -/

/-- Something can be read at the address (20_memory.md R66). -/
def readable (s : State) (a : Nat) : Bool := decide (region s.inst a ≠ .unmapped)

/-- Something can be stored at the address (R67). -/
def writable (s : State) (a : Nat) : Bool := (region s.inst a).writable

/-- A' is there: both registers are installed (10_state.md R23). -/
def hasPair (s : State) (r : Nat) : Bool := s.hasReg r && s.hasReg (r + 1)

/-- (A) can be supplied to an instruction that does not store in A: number 00 supplies absolute zero (R22). -/
def canSupply (s : State) (r : Nat) : Bool := decide (r = 0) || s.hasReg r

/-- The flip-flop operation of 95, 96 or 97 is one the table of B-6 permits (R34, R37). -/
def permitted : Instr → Bool
  | .tf o => decide (o.a ≤ 11 ∨ o.a = 15 ∨ (20 ≤ o.a ∧ o.a ≤ 34) ∨ (38 ≤ o.a ∧ o.a ≤ 82) ∨ o.a = 84 ∨ o.a = 90 ∨
      o.a = 98 ∨ o.a = 99)
  | .rf o => decide (o.a ≤ 9 ∨ o.a = 11 ∨ o.a = 15 ∨ (20 ≤ o.a ∧ o.a ≤ 34) ∨ (38 ≤ o.a ∧ o.a ≤ 70) ∨ o.a = 84 ∨
      o.a = 90)
  | .sf o => decide (o.a ≤ 10 ∨ o.a = 15 ∨ (21 ≤ o.a ∧ o.a ≤ 29) ∨ o.a = 90)
  | _ => true

/-- Everything the instruction names is there: its registers (R22, R23), its storage operand (20_memory.md R66 to R68), its
flip-flop. -/
def operandsThere (i : Instr) (s : State) (ea : Nat) : Bool :=
  match i with
  | .ax o | .a o | .am o | .nx o | .n o | .mxr o | .mr o | .m o | .dx o | .dr o | .f o =>
    readable s ea && s.hasReg o.a
  | .eop o | .ea o | .eb o | .eab o | .em o => readable s ea && s.hasReg o.a
  | .au o | .nu o | .mu o | .dur o | .mxe o | .me o | .dxe o | .dse o | .eu o => readable s ea && hasPair s o.a
  | .aax o | .aa o | .nnx o | .nn o | .mmx o | .mm o | .ddx o | .dd o | .ff o =>
    sameRegion s.inst ea && hasPair s o.a
  | .el o => readable s ea && s.hasReg o.a && s.hasReg (o.a - 1)
  | .s o | .sn o | .sm o => writable s ea && canSupply s o.a
  | .ss o | .ssn o | .ssm o => sameRegion s.inst ea && hasPair s o.a
  | .cx o | .c o | .pr o | .pl o => s.hasReg o.a
  | .ccx o | .cc o | .ppr o | .ppl o | .ppc o => hasPair s o.a
  | .te o | .tg o => hasPair s o.a
  | .tte o | .ttg o => hasPair s o.a && hasPair s (o.a + 2)
  | .tz o | .tgz o | .tlz o => canSupply s o.a
  | .bit o | .bdt o | .bic o | .bdc o | .bi o | .bd o | .tb o => s.hasReg o.a
  | .tr _ | .slj _ => writable s ea
  | .fv o | .fvk o => s.hasReg o.a
  | .sv o | .svk o => canSupply s o.a
  | .t _ | .sk _ | .h _ => true
  | .tf _ | .rf _ | .sf _ => permitted i

/-! ### Signs and numbers -/

/-- The two signs of an algebraic number, zero and minus (30_encoding.md R105). -/
def plain (c : Chr) : Bool := decide (c = .d 0 ∨ c = .minus)

/-- A sign that no rule of the arithmetic forbids: zero, minus, period. -/
def ordinary (c : Chr) : Bool := plain c || decide (c = .period)

/-- A numeric sign other than zero: the class NZ (R105). -/
def numericSign (c : Chr) : Bool := isNum c && decide (c ≠ .d 0)

/-- A non-numeric sign other than minus and period: the class OT (R105). -/
def foreignSign (c : Chr) : Bool := !isNum c && !ordinary c

/-- The correct sign of a number that is not zero (40_arithmetic_add_sub.md R143). -/
def signOf (v : Int) : Chr := if v < 0 then .minus else .d 0

/-- The sign of a product or quotient of magnitude `mag`: a period when either sign is one; else `0` for like signs and `-`
for unlike ones, the sign of a zero from unlike signs being open (41_arithmetic_mul_div.md R201). -/
def productSign (sa sm : Chr) (mag : Nat) (sg : Chr) : Prop :=
  if sa = .period ∨ sm = .period then sg = .period
  else if sa = sm then sg = .d 0
  else if mag = 0 then plain sg = true
  else sg = .minus

/-- The algebraic number a sign and a fixed-point word's magnitude stand for. -/
def fixedValue (w : Word) : Int := signed w.c12 (fxmag w)

/-- The same for a double-precision operand, the sign of the most significant half counting (R144). -/
def fixedValue2 (h l : Word) : Int := signed h.c12 (dfxmag h l)

/-- The word `sg ‖ dig_2(e) ‖ dig_9(f)` (30_encoding.md R101). -/
def floatWord (sg : Chr) (e f : Nat) : Word := wordOf sg (dig 2 e ++ dig 9 f)

/-- An operand of exponent `e` and significand `f` stands for `p` units of the last place at exponent `eh`, with no digit
lost (40_arithmetic_add_sub.md R147). -/
def alignedTo (eh e f p : Nat) : Prop := e ≤ eh ∧ f = p * 10 ^ (eh - e)

/-- `r` units of the last place of `n` digits at exponent `eh`, normalized: a carry drops the last digit, leading zeros are
shifted out (R147). -/
def normalizedSum (n eh r : Nat) (e : Int) (f : Nat) : Prop :=
  (10 ^ n ≤ r ∧ e = eh + 1 ∧ f = r / 10) ∨
    (r < 10 ^ n ∧ ∃ z : Nat, e + z = eh ∧ f = r * 10 ^ z ∧ 10 ^ (n - 1) ≤ f ∧ f < 10 ^ n)

/-- The value of a signed sum or difference of magnitudes `p` and `q` (40_arithmetic_add_sub.md R142, R145). -/
def sumValue (sa sm : Chr) (sub : Bool) (p q : Nat) : Int :=
  signed sa p + (if sub then -signed sm q else signed sm q)

/-- The sign of the sum of magnitudes when a period stands in an S-digit: that of the other number, inverted for a
subtracted number (R142 (iv), (v); R145 (ii)). -/
def periodSign (sa sm : Chr) (sub : Bool) : Option Chr :=
  if sm = .period then (if ordinary sa then some sa else none)
  else if sa = .period ∧ plain sm = true then some (if sub then (if sm = .minus then .d 0 else .minus) else sm)
  else none

/-- Sign and magnitude of a sum or difference that is not zero, or of one under a period. -/
def sumResult (sa sm : Chr) (sub : Bool) (p q : Nat) (sg : Chr) (r : Nat) : Prop :=
  (plain sa = true ∧ plain sm = true ∧ sumValue sa sm sub p q ≠ 0 ∧ sg = signOf (sumValue sa sm sub p q) ∧
    r = (sumValue sa sm sub p q).natAbs) ∨
  (periodSign sa sm sub = some sg ∧ r = p + q)

/-- 02, 12, 04, 14 and 03, each with the register it stores in, the M operand's sign (03 takes a zero) and whether the M operand
is subtracted (R146, R161 to R163, R167, R168). -/
def singleSums (o : Fields) (m : Word) : List (Instr × Nat × Chr × Bool) :=
  [(.a o, o.a, m.c12, false), (.n o, o.a, m.c12, true), (.au o, o.a + 1, m.c12, false), (.nu o, o.a + 1, m.c12, true),
   (.am o, o.a, .d 0, false)]

/-- The contingencies of an exponent: 43 below 00, 42 above 99 (R149 (b); by name, D17; log 17). -/
def rangeFlags (e : Int) : List Nat := if e < 0 then [43] else if 99 < e then [42] else []

/-- A result with exponent `e` is stored and the contingencies `ks` are raised after it: `put x` is the state in which its words
stand with the characters `x` in the exponent positions, two digits of `e` where `e` is 0 to 99, else not given (R149, D22;
60_exceptions.md R473). Control goes on in sequence. -/
def resultStored (i : Instr) (s : State) (put : List Chr → State) (e : Int) (ks : List Nat) : Prop :=
  ∃ x : List Chr, x.length = 2 ∧ (0 ≤ e → e ≤ 99 → x = dig 2 e.toNat) ∧
    match ks with
    | [] => exec i s = .next (put x).next
    | k :: more => ∃ t, exec i s = .next t ∧ raisedAs s t k more ∧ inSequence s t ∧ t.x = (put x).x ∧ t.mem = s.mem

/-- Of two floating-point numbers, exponents `ea`, `em` and significands `fa`, `fm`, the alignment drops a digit that is not
zero: `eh` is the larger exponent, `el` the smaller one, and the significand at `el` is no multiple of the places dropped
(40_arithmetic_add_sub.md R147). -/
def dropsDigit (ea fa em fm eh el : Nat) : Prop :=
  el < eh ∧ ((ea = eh ∧ em = el ∧ fm % 10 ^ (eh - el) ≠ 0) ∨ (em = eh ∧ ea = el ∧ fa % 10 ^ (eh - el) ≠ 0))

/-- `f` at exponent `e` is a result of `n` digits, normalized or zero (a zero has shifted out `n` places), that differs from the
exact magnitude `v`, in units of the last place at `el`, by at most one unit of the last place kept, the coarser of those at `e`
and at `eh`; `b` is an exponent to which all three are reduced (92_eei_decisions.md D21 on `FAddInexact`; log 28). -/
def nearSum (n eh el v : Nat) (e : Int) (f : Nat) : Prop :=
  ((f = 0 ∧ e = (eh : Int) - n) ∨ (10 ^ (n - 1) ≤ f ∧ f < 10 ^ n)) ∧
    ∃ (b : Int) (x y z : Nat), b + x = e ∧ b + y = el ∧ b + z = max e eh ∧
      f * 10 ^ x ≤ v * 10 ^ y + 10 ^ z ∧ v * 10 ^ y ≤ f * 10 ^ x + 10 ^ z

/-- Instruction `i` stores a sum that is not digit-preserving (R147; the bounds are log 28): `p` and `q` are the operands'
significands in units of the last place at `el`, and `put sg f x` is the state with the result's sign, significand and exponent
characters. Of signed numbers the sign is that of the exact sum, `0` or `-` where the significand is zero; then, in double
precision alone, 40 is raised too (R150, the exponents being unequal). Under a period the sign is the plan's and nothing is
raised (R145, R149). -/
def inexactStored (n eh el : Nat) (sa sm : Chr) (sub : Bool) (p q : Nat) (i : Instr) (s : State)
    (put : Chr → Nat → List Chr → State) : Prop :=
  (plain sa = true → plain sm = true → ∃ e f sg, nearSum n eh el (sumValue sa sm sub p q).natAbs e f ∧ plain sg = true ∧
    (f ≠ 0 → sg = signOf (sumValue sa sm sub p q)) ∧
    resultStored i s (put sg f) e ((if f = 0 ∧ n = 20 then [40] else []) ++ rangeFlags e)) ∧
  (∀ sg, periodSign sa sm sub = some sg → ∃ e f, nearSum n eh el (p + q) e f ∧ resultStored i s (put sg f) e [])

/-- The `k`-digit significand, unrounded, of the product of two normalized `n`-digit numbers: one left shift where the
leading digit is zero (41_arithmetic_mul_div.md R206). -/
def productSignificand (n k fa fm f : Nat) : Prop :=
  if 10 ^ (2 * n - 1) ≤ fa * fm then f = fa * fm * 10 ^ k / 10 ^ (2 * n)
  else f = fa * fm * 10 * 10 ^ k / 10 ^ (2 * n)

/-- Its exponent, and its significand (R206). -/
def productDigits (n k ea fa em fm : Nat) (e : Int) (f : Nat) : Prop :=
  productSignificand n k fa fm f ∧ (if 10 ^ (2 * n - 1) ≤ fa * fm then e + 50 = ea + em else e + 51 = ea + em)

/-- Exponent and `k`-digit significand, unrounded, of the quotient of a normalized `n`-digit by a normalized `nd`-digit
number (41_arithmetic_mul_div.md R208). -/
def quotientDigits (n nd k ea fa em fm : Nat) (e : Int) (f : Nat) : Prop :=
  (fa * 10 ^ nd < fm * 10 ^ n ∧ e + em = ea + 50 ∧ f = fa * 10 ^ nd * 10 ^ k / (fm * 10 ^ n)) ∨
    (fm * 10 ^ n ≤ fa * 10 ^ nd ∧ e + em = ea + 51 ∧ f = fa * 10 ^ nd * 10 ^ (k - 1) / (fm * 10 ^ n))

/-- `f` kept or rounded up by one in the ninth place, a carry out of the top digit going into the exponent (R204, R206,
R208). -/
def roundedFrom (e : Int) (f : Nat) (e' : Int) (f' : Nat) : Prop :=
  (e' = e ∧ f' = f) ∨ (f + 1 < 10 ^ 9 ∧ e' = e ∧ f' = f + 1) ∨ (f + 1 = 10 ^ 9 ∧ e' = e + 1 ∧ f' = 10 ^ 8)

/-- The S-digits an arithmetic instruction examines, that of the A operand first: those of the words themselves; in double
precision those of the most significant halves, for multiplication of the least significant ones; 03 takes a zero for the M
operand's (40_arithmetic_add_sub.md R144, R146; 41_arithmetic_mul_div.md R203). -/
def examinedSigns (i : Instr) (s : State) (ea : Nat) : Option (Chr × Chr) :=
  match i with
  | .ax o | .a o | .au o | .aax o | .aa o | .nx o | .n o | .nu o | .nnx o | .nn o =>
    some ((s.reg o.a).c12, (s.load ea).c12)
  | .am o => some ((s.reg o.a).c12, .d 0)
  | .mxr o | .mxe o | .mr o | .m o | .mu o | .me o => some ((s.reg o.a).c12, (s.load ea).c12)
  | .mmx o | .mm o => some ((s.reg (o.a + 1)).c12, (s.load (ea + 1)).c12)
  | .dx o | .dxe o | .dr o | .dur o | .ddx o | .dd o | .dse o => some ((s.reg o.a).c12, (s.load ea).c12)
  | _ => none

/-- The signs that cause the sign anomaly: in single-precision fixed-point addition and subtraction a non-numeric character
other than minus and period, or two numeric ones other than zero; elsewhere in the arithmetic any character other than zero,
minus and period in either (R142, R145; 41_arithmetic_mul_div.md R201). -/
def anomalousSigns (i : Instr) (sa sm : Chr) : Bool :=
  match i with
  | .ax _ | .nx _ => foreignSign sa || foreignSign sm || (numericSign sa && numericSign sm)
  | _ => !ordinary sa || !ordinary sm

/-! ### Where the spec states no result -/

/-- A sign ends the instruction before a magnitude is read: a sign anomaly of the arithmetic, or a sign that blocks a comparison
(R141; 43_conditional_transfer.md R302, R312). -/
def signStops (i : Instr) (s : State) (ea : Nat) : Bool :=
  match i with
  | .te o | .tg o => foreignSign (s.reg o.a).c12 || foreignSign (s.reg (o.a + 1)).c12
  | .tz o => !ordinary (s.reg o.a).c12
  | .ttg o => foreignSign (s.reg o.a).c12 || foreignSign (s.reg (o.a + 1)).c12 || foreignSign (s.reg (o.a + 2)).c12 ||
      foreignSign (s.reg (o.a + 3)).c12
  | _ =>
    match examinedSigns i s ea with
    | some (sa, sm) => anomalousSigns i sa sm
    | none => false

/-- The words whose eleven magnitude positions the instruction reads as numbers, where no sign stops it: the operands of the
arithmetic (R140; 41_arithmetic_mul_div.md R200), of the comparisons (43_conditional_transfer.md R303, R312; 73 reads them under
`0` and a period alone, R313; 76 the least significant halves where the most significant ones are equal, R316) and of the
conversions (47_conversion.md R390). -/
def magnitudesRead (i : Instr) (s : State) (ea : Nat) : List Word :=
  match i with
  | .ax o | .a o | .am o | .au o | .nx o | .n o | .nu o => [s.reg o.a, s.load ea]
  | .mxr o | .mxe o | .mr o | .m o | .mu o | .me o | .dx o | .dxe o | .dr o | .dur o => [s.reg o.a, s.load ea]
  | .aax o | .aa o | .nnx o | .nn o | .mmx o | .mm o | .ddx o | .dd o =>
    [s.reg o.a, s.reg (o.a + 1), s.load ea, s.load (ea + 1)]
  | .dse o => [s.reg o.a, s.reg (o.a + 1), s.load ea]
  | .te o | .tg o => [s.reg o.a, s.reg (o.a + 1)]
  | .ttg o => [s.reg o.a, s.reg (o.a + 2)] ++
      (if cmpWords (s.reg o.a) (s.reg (o.a + 2)) = .eq then [s.reg (o.a + 1), s.reg (o.a + 3)] else [])
  | .tgz o => if (s.reg o.a).c12 = .d 0 ∨ (s.reg o.a).c12 = .period then [s.reg o.a] else []
  | .tz o | .cx o | .c o => [s.reg o.a]
  | .ccx o | .cc o => [s.reg o.a, s.reg (o.a + 1)]
  | _ => []

/-- A floating-point operand is absolute zero: a period for the examined sign, exponent and significand zero
(30_encoding.md R106). -/
def zeroOperand (sg : Chr) (e f : Nat) : Prop := sg = .period ∧ e = 0 ∧ f = 0

/-- A product of `n`-digit operands has a factor that is not normalized and no factor that is absolute zero (R206, D44). -/
def looseProduct (n : Nat) (sa sm : Chr) (ea fa em fm : Nat) : Prop :=
  (fa < 10 ^ (n - 1) ∨ fm < 10 ^ (n - 1)) ∧ ¬ zeroOperand sa ea fa ∧ ¬ zeroOperand sm em fm

/-- A quotient by a normalized `nd`-digit divisor has an `n`-digit dividend that is neither normalized nor absolute zero (R208,
D24, D44). -/
def looseQuotient (n nd : Nat) (sa : Chr) (ea fa fm : Nat) : Prop :=
  10 ^ (nd - 1) ≤ fm ∧ fa < 10 ^ (n - 1) ∧ ¬ zeroOperand sa ea fa

/-- A floating-point multiplication or division of operands that are not normalized (D44). -/
def looseOperands (i : Instr) (s : State) (ea : Nat) : Prop :=
  match i with
  | .mr o | .m o | .mu o | .me o =>
    looseProduct 9 (s.reg o.a).c12 (s.load ea).c12 (flexp (s.reg o.a)) (flsig (s.reg o.a)) (flexp (s.load ea))
      (flsig (s.load ea))
  | .mm o =>
    looseProduct 20 (s.reg (o.a + 1)).c12 (s.load (ea + 1)).c12 (flexp (s.reg o.a)) (dflsig (s.reg o.a) (s.reg (o.a + 1)))
      (flexp (s.load ea)) (dflsig (s.load ea) (s.load (ea + 1)))
  | .dr o | .dur o =>
    looseQuotient 9 9 (s.reg o.a).c12 (flexp (s.reg o.a)) (flsig (s.reg o.a)) (flsig (s.load ea))
  | .dd o =>
    looseQuotient 20 20 (s.reg o.a).c12 (flexp (s.reg o.a)) (dflsig (s.reg o.a) (s.reg (o.a + 1)))
      (dflsig (s.load ea) (s.load (ea + 1)))
  | .dse o =>
    looseQuotient 20 9 (s.reg o.a).c12 (flexp (s.reg o.a)) (dflsig (s.reg o.a) (s.reg (o.a + 1))) (flsig (s.load ea))
  | _ => False

/-- The index word an instruction steps, and whether it counts down (48_index_register.md R420, R423). -/
def stepsIndex (i : Instr) (s : State) : Option (Word × Bool) :=
  match i with
  | .bit o | .bic o | .bi o => some (s.reg o.a, false)
  | .bdt o | .bdc o | .bd o => some (s.reg o.a, true)
  | _ => none

/-- The spec refuses the instruction in this state under decision `d` of 92_eei_decisions.md, because no result is stated
(00_scope.md R9). -/
def noResult (i : Instr) (s : State) (d : Nat) : Prop :=
  (d = 28 ∧ i.fields.b ≠ 0 ∧ (slice (s.reg i.fields.b) 5 1).all isNum = false) ∨
  (d = 9 ∧ i.fields.b ≠ 0 ∧ 99999 < i.fields.m + ixDelta (s.reg i.fields.b)) ∨
  (d = 30 ∧ (∀ o, i ≠ .h o) ∧ sameRegion s.inst s.pc = false) ∨
  ∃ ea, effM s i.fields = .ok ea ∧
    ((d = 30 ∧ (∃ o, i = .tr o) ∧ sameRegion s.inst ea = false) ∨
      (d = 38 ∧ (∃ o, i = .ax o ∨ i = .nx o) ∧ signStops i s ea = false ∧
        ∃ sa sm, examinedSigns i s ea = some (sa, sm) ∧ (numericSign sa = true ∨ numericSign sm = true)) ∨
      (d = 40 ∧ signStops i s ea = false ∧ ∃ w ∈ magnitudesRead i s ea, (slice w 11 1).all isNum = false) ∨
      (d = 44 ∧ signStops i s ea = false ∧ looseOperands i s ea) ∨
      (d = 49 ∧ ∃ o, (i = .cx o ∨ i = .ccx o) ∧ ea % 100 < flexp (s.reg o.a)) ∨
      ∃ w down, stepsIndex i s = some (w, down) ∧
        ((d = 28 ∧ (slice w 12 1).all isNum = false) ∨
          (d = 27 ∧ if down then ixDelta w < ixD w else 99999 < ixDelta w + ixD w)))

/-- The T-digit of a word that the tracing mode does not concern: a period, or a selector t with FF 20 and FF 20+t reset
(60_exceptions.md R486, D12; log 16). -/
def untracedT (s : State) (c : Chr) : Prop :=
  c = .period ∨ ∃ t : Fin 10, t ≠ 0 ∧ c = .d t ∧ s.flag 20 = false ∧ s.flag (20 + t.val) = false

/-- Two sign characters compare alike: a period counts as a zero (43_conditional_transfer.md R301). -/
def sameSign (c d : Chr) : Bool :=
  decide (c = d ∨ (c = .d 0 ∧ d = .period) ∨ (c = .period ∧ d = .d 0))

end Sys2Proof.Machine
end

