-- ==== Sys2Proof/Certificates/Slice0/Obligations.lean ====
section
/-! DEFINITION. The statements for the provers. Each docstring names the rules of spec/ it rests on. -/

open Sys2Proof Sys2Proof.Machine

/-! ### Reset -/

/-- The state after reset is a good one (the invariant of `StepKeepsGood` at reset), and what it holds. THE MODEL'S CHOICE:
the source gives no initial value of anything (10_state.md R45), the values are those of logs 2, 4 to 11, 14, 15, 49 and 63: the
unit is not stopped and no event is pending, C and C2 are 00000, every installed fast register, every core word and both display
registers hold zeros, every flip-flop, Interlock and Connect are reset, no agent is scheduled and no turn has been had. -/
def Obligations.ResetState : Prop :=
  State.reset.good = true ∧ State.reset.stopped = false ∧ State.reset.trap = none ∧ State.reset.pc = 0 ∧
    State.reset.c2 = 0 ∧
    (∀ r, 1 ≤ r → r ≤ 99 → State.reset.hasReg r = true ∧ State.reset.reg r = zeroWord) ∧
    (∀ a, a < 97500 → region State.reset.inst a = .core ∧ State.reset.load a = zeroWord) ∧
    (∀ k, State.reset.flag k = false) ∧
    State.reset.vd5.chars = dig 5 0 ∧ State.reset.vd12 = zeroWord ∧ State.reset.interlock = false ∧
    State.reset.connect = false ∧ State.reset.inst = ⟨99, 97500, 0, true⟩ ∧ State.reset.written = [] ∧
    State.reset.schedule = [] ∧ State.reset.tick = 0

/-! ### Encoding -/

/-- Decoding the word of any well-formed instruction gives the instruction back (30_encoding.md R90, R91, R110). -/
def Obligations.DecodeOfEncode : Prop := ∀ i : Instr, i.wellFormed = true → decode (encode i) = .instr i

/-- Every instruction word has one meaning and is the word of that instruction: what the decoder reads is well formed, and
its encoding is the word that was read (R90, R91, R110). -/
def Obligations.EncodeOfDecode : Prop :=
  ∀ (w : Word) (i : Instr), decode w = .instr i → i.wellFormed = true ∧ encode i = w

/-- Words written out digit by digit from the format `T II AA BB MMMMM` and the numbers of R110 decode to the instructions
they stand for: `.01 03 04 12345` AX, `990 00 00 00101` T with selector 9, `.43 12 00 99907` F, `.95 99 00 00520` TF. -/
def Obligations.SampleWords : Prop :=
  decode ⟨.period, .d 0, .d 1, .d 0, .d 3, .d 0, .d 4, .d 1, .d 2, .d 3, .d 4, .d 5⟩ = .instr (.ax ⟨.untraced, 3, 4, 12345⟩) ∧
  decode ⟨.d 9, .d 9, .d 0, .d 0, .d 0, .d 0, .d 0, .d 0, .d 0, .d 1, .d 0, .d 1⟩ = .instr (.t ⟨.selector 9, 0, 0, 101⟩) ∧
  decode ⟨.period, .d 4, .d 3, .d 1, .d 2, .d 0, .d 0, .d 9, .d 9, .d 9, .d 0, .d 7⟩ = .instr (.f ⟨.untraced, 12, 0, 99907⟩) ∧
  decode ⟨.period, .d 9, .d 5, .d 9, .d 9, .d 0, .d 0, .d 0, .d 0, .d 5, .d 2, .d 0⟩ = .instr (.tf ⟨.untraced, 99, 0, 520⟩)

/-! ### The step -/

/-- A step runs the decoded instruction (30_encoding.md R98): with no move of another agent before it, the unit running and
no event pending, where the word at C is an instruction that no tracing flip-flop concerns and that was not written within the
last PREFETCH instructions, the step is that instruction's meaning in the same state. (`turn` advances the model's count of
turns, log 11; `noteWrites` keeps the model's record of what was just written, log 49; neither changes anything else.) THE
MODEL'S CHOICE: that a selector runs as a period does when FF 20 and FF 20+t are reset is the spec's D12 (log 16, PRESUMED);
that C may name a fast register is D29 (log 39). Where the spec refuses because no result is stated for the operands
(`unstated`, R9), the step is refused by the number of the decision, and in the model's other reading it goes on with the free
values of the meaning (log 63); where that is, and that it is nowhere else, `UnstatedResults` says. -/
def Obligations.StepRunsInstruction : Prop :=
  ∀ (s : State) (i : Instr), s.schedule = [] → s.stopped = false → s.trap = none → prefetched s = false →
    region s.inst s.pc ≠ .unmapped → s.pc ≠ 99900 → decode (s.load s.pc) = .instr i →
    (∀ t, i.fields.t = .selector t → s.flag 20 = false ∧ s.flag (20 + t) = false) →
    (∀ t, exec i s.turn = .next t → unstated i s.turn = none → step s = .next (t.noteWrites i s.turn)) ∧
    (∀ t d, exec i s.turn = .next t → unstated i s.turn = some d →
      (s.inst.strict = true → step s = .refused (.unstated d)) ∧
      (s.inst.strict = false → step s = .next (t.noteWrites i s.turn))) ∧
    (∀ f, exec i s.turn = .fault f → step s = .fault f) ∧
    (∀ r, exec i s.turn = .refused r → step s = .refused r)

/-- Where the spec refuses an instruction because no result is stated, and nowhere else (00_scope.md R9 with the decisions of
92_eei_decisions.md). 28: the five low characters of the index register in the B-digits are not all numeric (30_encoding.md
R96), or an index word to be stepped is not numeric in all twelve positions (48_index_register.md R421). 9: M plus the modifier
exceeds 99999 (R96). 30: C is the last address of its region, but for 99, or for 91 so is M (10_state.md R27,
44_unconditional_transfer.md R343). 38: one numeric sign 1-9 in 01 or 11 (40_arithmetic_add_sub.md R142). 40: a character that
is not numeric in a magnitude that is read, no sign being an anomaly or blocking the comparison (R140, 43 R303). 44: a factor not
normalized, or a dividend not normalized with a normalized divisor, none of them absolute zero (41_arithmetic_mul_div.md R206,
R208). 49: 50 or 55 with the exponent above the scale factor (47_conversion.md R392, R395). 27: a modifier stepped above 99999
or below 0 (48 R423). THE MODEL'S CHOICE: that D9 refuses is the recommended value of OverflowEA (log 38); which of several that
apply is the one reported is not said. -/
def Obligations.UnstatedResults : Prop :=
  ∀ (i : Instr) (s : State),
    (∀ d, unstated i s = some d → noResult i s d) ∧ (unstated i s = none → ∀ d, ¬ noResult i s d)

/-- Words that are no instruction, and places that hold none, as the step meets them (30_encoding.md R98 with the decisions D4,
D5, D10 to D13 and D32 of 92_eei_decisions.md). Where C names no storage, or the constant 99900, the step is
refused, and so it is where one of the last PREFETCH instructions wrote the word (log 49). Elsewhere: the ignore sign as T-digit
is refused; a selector t with FF 20 or FF 20+t set is refused; under a period, or a selector t with FF 20 and FF 20+t reset
(`untracedT`), a non-numeric character below the T-digit is refused and an unassigned number is the fault IllegalInstruction.
THE MODEL'S CHOICE: the refusals are logs 41 and 42; that selector t belongs to FF 20+t, and that it is without effect while both
are reset, is D12 (log 16, PRESUMED). -/
def Obligations.WordsThatAreNoInstruction : Prop :=
  ∀ s : State, s.schedule = [] → s.stopped = false → s.trap = none →
    (prefetched s = true → step s = .refused (.prefetched s.pc)) ∧
    (prefetched s = false →
      (region s.inst s.pc = .unmapped → step s = .refused (.unmapped s.pc)) ∧
      (s.pc = 99900 → step s = .refused .constantFetch) ∧
      (region s.inst s.pc ≠ .unmapped → s.pc ≠ 99900 →
        ((s.load s.pc).c12 = .ignore → step s = .refused .indirectAddressing) ∧
        (∀ t : Fin 10, t ≠ 0 → (s.load s.pc).c12 = .d t → (s.flag 20 = true ∨ s.flag (20 + t.val) = true) →
          step s = .refused (.tracingMode t.val)) ∧
        (untracedT s (s.load s.pc).c12 → (slice (s.load s.pc) 11 1).all isNum = false →
          step s = .refused .nonNumericField) ∧
        (∀ n ∈ [7, 8, 10, 13, 17, 18, 28, 33, 38, 44, 49, 54, 67, 68, 69, 77, 78, 79, 84, 87, 88, 89, 94, 98],
          untracedT s (s.load s.pc).c12 → (slice (s.load s.pc) 11 1).all isNum = true →
          slice (s.load s.pc) 11 10 = dig 2 n → step s = .fault (.illegalInstruction n))))

/-- An illegal T-digit (30_encoding.md R94, 60_exceptions.md R477): when T is not a period, not one of 1 to 9 and not the
ignore sign, the instruction is not executed, FF 49 and FF 98 are set, and the outcome is Trap(error, 49). Registers,
storage, C, C2 and every other flip-flop are as they were. THE MODEL'S CHOICE: the source names no flip-flop, FF 49 is the spec's
reading by name (D14; log 18), and that FF 98 follows is D16 (log 20). -/
def Obligations.IllegalTDigit : Prop :=
  ∀ s : State, s.schedule = [] → s.stopped = false → s.trap = none → prefetched s = false →
    region s.inst s.pc ≠ .unmapped → s.pc ≠ 99900 →
    (s.load s.pc).c12 ≠ .period → (s.load s.pc).c12 ≠ .ignore →
    (∀ t : Fin 10, t ≠ 0 → (s.load s.pc).c12 ≠ .d t) →
    ∃ t, step s = .next t ∧ t.trap = some ⟨.error, 49⟩ ∧ (∀ k, t.flag k = (s.flag k || decide (k = 49 ∨ k = 98))) ∧
      t.x = s.x ∧ t.mem = s.mem ∧ t.pc = s.pc ∧ t.c2 = s.c2

/-- Every step from a good state, whoever moves in it, ends in a good state: storage keeps its canonical form and lies within
the installed core, C and C2 stay five digits, FF 98 and FF 99 stay the disjunctions of their groups, and 71 to 82 stay reset
while the fourteen odd-even flip-flops are (20_memory.md R60, R65; 10_state.md R26, R29, R36; 60_exceptions.md R480).
THE MODEL'S CHOICE: that FF 98 and FF 99 are those disjunctions is the spec's reading D16 (log 20, DEDUCED), and a routine entry is
held to the invariant (log 14). -/
def Obligations.StepKeepsGood : Prop := ∀ s t : State, s.good = true → step s = .next t → t.good = true

/-- Instruction 99 stops the unit and changes nothing else, C staying at its address; a stopped unit has no step
(10_state.md R44, 49_display_misc.md R448).
THE MODEL'S CHOICE: the source does not say where C stands after 99; that it stays at the address of the
99 is the spec's decision D34 (log 50, DEDUCED). -/
def Obligations.StopInstruction : Prop :=
  (∀ (o : Fields) (s : State) (ea : Nat), effM s o = .ok ea → exec (.h o) s = .next { s with stopped := true }) ∧
  (∀ s : State, s.stopped = true → s.schedule = [] → step s = .fault .stopped)

/-- The transfer to a routine, made in the step after the event was raised (60_exceptions.md R472), is a step that goes on with
the event dealt with and from a good state to a good state; it is no instruction, and leaves the record of the schedule. THE
MODEL'S CHOICE (log 14, with D15): it is a step of its own, and every register, flip-flop, word of storage, C, C2 and display
register after it is the free value `Config.trapEntry` of the event and the whole state, bound by the invariant alone. -/
def Obligations.RoutineEntry : Prop :=
  ∀ (s : State) (e : Trap), s.schedule = [] → s.stopped = false → s.trap = some e →
    ∃ t, step s = .next t ∧ t.trap = none ∧ t.inst = s.inst ∧ t.schedule = [] ∧ t.written = s.written ∧
      t.tick = s.tick + 1 ∧ (s.good = true → t.good = true)

/-- The moves of the other agents, each a step of its own (10_state.md R35, R41; 60_exceptions.md R484, R494): the processor
resets FF 10 or sets FF 11, the console sets one of FF 30-34, FF 99 following the contingency flip-flops; Interlock and the
display registers are set; a core word is written. Each changes that alone: a move on a flip-flop the flip-flops (and the event
pending), the write of a core word storage, and a write outside installed core nothing; of the other display register, when one is
set, nothing is said (R40; log 64). THE MODEL'S CHOICE (log 15): that the moves are steps of a schedule and which they are (with D31, and D35 for Interlock); whether the move that sets FF 11 or
FF 30-34 asks for the transfer to the contingency routine, and that an event pending already stands before it; that FF 99
follows is D16 (log 20). -/
def Obligations.ExternalMoves : Prop :=
  ∀ (s t : State) (m : Move) (rest : List (Option Move)), s.schedule = some m :: rest → step s = .next t →
    t.x = s.x ∧ t.pc = s.pc ∧ t.c2 = s.c2 ∧ t.stopped = s.stopped ∧ t.schedule = rest ∧
    (m = .resetDisclosure → t = { s with ff := t.ff, schedule := rest } ∧ ∀ k, t.flag k = (s.flag k && decide (k ≠ 10))) ∧
    (∀ e, m = .processorIntervention e → t = { s with ff := t.ff, trap := t.trap, schedule := rest } ∧ (∀ k, t.flag k = (s.flag k || decide (k = 11 ∨ k = 99))) ∧
      t.trap = if e = true ∧ s.trap = none then some ⟨.contingency, 11⟩ else s.trap) ∧
    (∀ j e, m = .consoleIntervention j e → t = { s with ff := t.ff, trap := t.trap, schedule := rest } ∧ (∀ k, t.flag k = (s.flag k || decide (k = 30 + j.val ∨ k = 99))) ∧
      t.trap = if e = true ∧ s.trap = none then some ⟨.contingency, 30 + j.val⟩ else s.trap) ∧
    (∀ b, m = .setInterlock b → t = { s with interlock := b, schedule := rest }) ∧
    (∀ v, m = .loadDisplay5 v → t = { s with vd5 := v, vd12 := t.vd12, schedule := rest }) ∧
    (∀ w, m = .loadDisplay12 w → t = { s with vd12 := w, vd5 := t.vd5, schedule := rest }) ∧
    (∀ a w, m = .writeCore a w → t = { s with mem := t.mem, schedule := rest } ∧
      (region s.inst a = .core → s.mem.wf = true → ∀ b, t.load b = if b = a then w else s.load b) ∧
      (region s.inst a ≠ .core → t.mem = s.mem))

/-! ### Frames, over all 76 instructions -/

/-- Registers and storage (10_state.md R24; 20_memory.md R66 to R68): when an instruction answers a next state, every fast
register but those it writes through its A-digits, and every storage word but the `storedWords i` from its effective address
on, is unchanged (a fast register can also be stored to as an address 999rr). -/
def Obligations.FrameStorage : Prop :=
  ∀ (i : Instr) (s t : State), exec i s = .next t →
    (∀ r, r ∉ writtenRegs i →
      (∀ ea, effM s i.fields = .ok ea → ¬ (ea ≤ 99900 + r ∧ 99900 + r < ea + storedWords i)) → t.reg r = s.reg r) ∧
    (∀ a, (∀ r ∈ writtenRegs i, a ≠ 99900 + r) →
      (∀ ea, effM s i.fields = .ok ea → ¬ (ea ≤ a ∧ a < ea + storedWords i)) → t.load a = s.load a)

/-- Flip-flops (60_exceptions.md R471, R480; 49_display_misc.md R446, R447; 10_state.md R36): an instruction leaves every
flip-flop unchanged but those of its own contingencies with FF 99; 96 may change the one it names, 71 to 82 and the masters;
97 the one it names.
THE MODEL'S CHOICE: that no instruction changes FF 39 or a hardware-error flip-flop is the spec's decision D45 (log
52, DEDUCED), the contingency numbers but 40 and 43 are paired by name (D17; log 17), and FF 98 and FF 99 follow (D16; log 20). -/
def Obligations.FrameFlags : Prop :=
  ∀ (i : Instr) (s t : State), exec i s = .next t → ∀ k, k ∉ flagsWritten i → t.flag k = s.flag k

/-- Only instruction 96 resets a flip-flop: "This is the only way a program clears a contingency or error flip-flop"
(49_display_misc.md R446), and C2, a fast register or storage is no way to one. -/
def Obligations.OnlyResetClears : Prop :=
  ∀ (i : Instr) (s t : State) (k : Nat), exec i s = .next t → s.flag k = true → t.flag k = false → ∃ o, i = .rf o

/-- C and C2 (10_state.md R27, R28, R30): an instruction of XFER either transfers control to its target and leaves (C)+1 in
C2, or goes on in sequence and leaves the effective M-digits in C2; every other instruction but 99 goes on in sequence and
leaves C2 alone. (C)+1 is `succAddr`, which is the next address wherever the region has one (D30; log 39).
THE MODEL'S CHOICE: that C2 gets the effective M-digits, after B-modification, is D46 (log 46), and that 99 leaves C
at its own address is D34 (log 50). -/
def Obligations.ControlCounters : Prop :=
  ∀ (i : Instr) (s t : State), exec i s = .next t →
    (inXfer i = true → ∃ ea, effM s i.fields = .ok ea ∧
      ((t.pc = transferTarget i s ea ∧ t.c2 = succAddr s.inst s.pc) ∨ (t.pc = succAddr s.inst s.pc ∧ t.c2 = ea))) ∧
    (inXfer i = false → (∀ o, i ≠ .h o) → t.pc = succAddr s.inst s.pc ∧ t.c2 = s.c2) ∧
    (∀ o, i = .h o → t.pc = s.pc ∧ t.c2 = s.c2) ∧
    (sameRegion s.inst s.pc = true → succAddr s.inst s.pc = s.pc + 1)

/-- Everything else (10_state.md R40 to R44): the display registers change under 29 and 39 alone, Interlock and Connect under 09 and 19 alone, the stopped flag under 99 alone; the installation and the model's
schedule, record of writes and count of turns under no instruction. Whether the 12-digit register changes
under 29, or the 5-digit one under 39, R40 leaves open, and nothing is said of it (log 64). THE MODEL'S CHOICE: that both leave
Interlock and Connect is log 51 (DEDUCED, with D35). -/
def Obligations.FrameOther : Prop :=
  ∀ (i : Instr) (s t : State), exec i s = .next t →
    ((∀ o, i ≠ .sv o) → (∀ o, i ≠ .svk o) → t.vd5 = s.vd5 ∧ t.vd12 = s.vd12) ∧
    ((∀ o, i ≠ .fv o) → (∀ o, i ≠ .fvk o) → t.interlock = s.interlock ∧ t.connect = s.connect) ∧
    ((∀ o, i ≠ .h o) → t.stopped = s.stopped) ∧
    t.inst = s.inst ∧ t.schedule = s.schedule ∧ t.written = s.written ∧ t.tick = s.tick

/-- A contingency is recorded, never lost (60_exceptions.md R471 to R473, R480, R481): an instruction that starts with no
event pending either raises nothing, and then every flip-flop outside the reach of 96 and 97 is unchanged, or leaves the
outcome Trap(contingency, k) with k one of the contingencies R471 gives it, FF k and FF 99 set.
THE MODEL'S CHOICE: the numbers but 40, and 43 in the conversions, are paired with their conditions
by name (D17; log 17); that nothing else is set, FF 39 among them, is D45 (log 52); of two the lower is the outcome (D43; log 21). -/
def Obligations.ContingencyRecorded : Prop :=
  ∀ (i : Instr) (s t : State), exec i s = .next t → s.trap = none →
    (t.trap = none ∧ ((∀ o, i ≠ .rf o) → (∀ o, i ≠ .sf o) → ∀ k, t.flag k = s.flag k)) ∨
    (∃ k ∈ raisable i, t.trap = some ⟨.contingency, k⟩ ∧ t.flag k = true ∧ t.flag 99 = true)

/-- Every instruction goes on exactly when its effective address can be formed and everything it names is there: its
registers, its storage operand, its flip-flop (10_state.md R21 to R23, R34; 20_memory.md R63 to R68; D4 to D8, D36). No
contents of an operand stop it.
THE MODEL'S CHOICE: the refusals are logs 40, 41 and 43; and where the spec refuses because no result is stated, the refusal is
the step's (`settle`), the meaning itself going on with a free value (log 63: D9, log 38; D27, log 36; D28 and D40, log 37; D30,
log 39; D38, log 25; D44, log 30; D49, log 47). -/
def Obligations.GoesOnExactly : Prop :=
  ∀ (i : Instr) (s : State),
    goesOn (exec i s) = true ↔ ∃ ea, effM s i.fields = .ok ea ∧ operandsThere i s ea = true

/-- The effective M-digits (30_encoding.md R96): with B = 00 the M-digits; else M plus the five low digits of the index
register where the sum is at most 99999; a register above NFR is refused. THE MODEL'S CHOICE: that refusal is D7 (log 40); and
an index register that is there always gives some five digits, a free value where its own are not numeric (D28; log 37) or the
sum is above 99999 (D9; log 38). -/
def Obligations.EffectiveAddress : Prop :=
  ∀ (s : State) (o : Fields),
    (o.b = 0 → effM s o = .ok o.m) ∧
    (∀ d, s.hasReg o.b = true → slice (s.reg o.b) 5 1 = dig 5 d → d ≤ 99999 → o.m + d ≤ 99999 →
      effM s o = .ok (o.m + d)) ∧
    (s.hasReg o.b = true → ∃ ea, ea ≤ 99999 ∧ effM s o = .ok ea) ∧
    (o.b ≠ 0 → s.hasReg o.b = false → effM s o = .error (.refused (.missingRegister o.b)))

/-! ### Addition and subtraction -/

/-- Single-precision fixed-point addition and subtraction of signed numbers (40_arithmetic_add_sub.md R142, R143, R160,
R166): the sum or difference with its correct sign goes to register A; a zero result has sign `0` or `-` (D18).
(A magnitude with a non-numeric character is a free number: D40, log 37.) -/
def Obligations.FixedAdd : Prop :=
  ∀ (o : Fields) (s : State) (ea : Nat), effM s o = .ok ea → readable s ea = true → s.hasReg o.a = true →
    plain (s.reg o.a).c12 = true → plain (s.load ea).c12 = true →
    (∀ v : Int, v = fixedValue (s.reg o.a) + fixedValue (s.load ea) →
      (v ≠ 0 → v.natAbs < 10 ^ 11 → exec (.ax o) s = .next ((s.setReg o.a (fxWord (signOf v) v.natAbs)).next)) ∧
      (v = 0 → ∃ sg, plain sg = true ∧ exec (.ax o) s = .next ((s.setReg o.a (fxWord sg 0)).next))) ∧
    (∀ v : Int, v = fixedValue (s.reg o.a) - fixedValue (s.load ea) →
      (v ≠ 0 → v.natAbs < 10 ^ 11 → exec (.nx o) s = .next ((s.setReg o.a (fxWord (signOf v) v.natAbs)).next)) ∧
      (v = 0 → ∃ sg, plain sg = true ∧ exec (.nx o) s = .next ((s.setReg o.a (fxWord sg 0)).next)))

/-- A period in either S-digit (R142 (iv), (v)): the magnitudes are added and the result has the sign of the other number;
the sign of a subtracted number is inverted when the period stands in (A).
(A magnitude with a non-numeric character is a free number: D40, log 37.) -/
def Obligations.FixedAddPeriod : Prop :=
  ∀ (o : Fields) (s : State) (ea : Nat), effM s o = .ok ea → readable s ea = true → s.hasReg o.a = true →
    fxmag (s.reg o.a) + fxmag (s.load ea) < 10 ^ 11 →
    (ordinary (s.reg o.a).c12 = true → (s.load ea).c12 = .period →
      exec (.ax o) s = .next ((s.setReg o.a (fxWord (s.reg o.a).c12 (fxmag (s.reg o.a) + fxmag (s.load ea)))).next) ∧
      exec (.nx o) s = .next ((s.setReg o.a (fxWord (s.reg o.a).c12 (fxmag (s.reg o.a) + fxmag (s.load ea)))).next)) ∧
    ((s.reg o.a).c12 = .period → (s.load ea).c12 = .d 0 →
      exec (.ax o) s = .next ((s.setReg o.a (fxWord (.d 0) (fxmag (s.reg o.a) + fxmag (s.load ea)))).next) ∧
      exec (.nx o) s = .next ((s.setReg o.a (fxWord .minus (fxmag (s.reg o.a) + fxmag (s.load ea)))).next)) ∧
    ((s.reg o.a).c12 = .period → (s.load ea).c12 = .minus →
      exec (.ax o) s = .next ((s.setReg o.a (fxWord .minus (fxmag (s.reg o.a) + fxmag (s.load ea)))).next) ∧
      exec (.nx o) s = .next ((s.setReg o.a (fxWord (.d 0) (fxmag (s.reg o.a) + fxmag (s.load ea)))).next))

/-- Double-precision fixed-point addition and subtraction (R144, R164, R169; R142 (iv), (v) for a period): the sign of the most
significant halves counts, all 22 digits take part, and both halves of the result carry the same sign; under a period the
magnitudes are added and the sign is that of the other number; a zero result of signed numbers has sign `0` or `-` (D18). (A
magnitude with a non-numeric character is a free number: D40, log 37.) -/
def Obligations.FixedAddDouble : Prop :=
  ∀ (o : Fields) (s : State) (ea P Q : Nat) (i : Instr) (sub : Bool), effM s o = .ok ea → sameRegion s.inst ea = true →
    hasPair s o.a = true → P = dfxmag (s.reg o.a) (s.reg (o.a + 1)) → Q = dfxmag (s.load ea) (s.load (ea + 1)) →
    (i, sub) ∈ [(Instr.aax o, false), (.nnx o, true)] →
    (∀ sg r, sumResult (s.reg o.a).c12 (s.load ea).c12 sub P Q sg r → r < 10 ^ 22 →
      exec i s = .next ((s.setPair o.a (fxWord sg (r / 10 ^ 11)) (fxWord sg (r % 10 ^ 11))).next)) ∧
    (plain (s.reg o.a).c12 = true → plain (s.load ea).c12 = true →
      sumValue (s.reg o.a).c12 (s.load ea).c12 sub P Q = 0 →
      ∃ sg, plain sg = true ∧ exec i s = .next ((s.setPair o.a (fxWord sg 0) (fxWord sg 0)).next))

/-- Fixed-point overflow (R149 (a), 60_exceptions.md R471, R473; FF 44 by name, D17, log 17): a sum or difference, of signed
numbers or of magnitudes under a period, that needs more than 11 or 22 digits sets FF 44 and FF 99 with the outcome
Trap(contingency, 44), after the destination is written; the stored words are not given (D19). (A magnitude with a non-numeric
character is a free number: D40, log 37.) -/
def Obligations.FixedOverflow : Prop :=
  ∀ (o : Fields) (s : State) (ea r : Nat) (i : Instr) (sub : Bool) (sg : Chr), effM s o = .ok ea →
    operandsThere i s ea = true →
    ((i, sub) ∈ [(Instr.ax o, false), (.nx o, true)] →
      sumResult (s.reg o.a).c12 (s.load ea).c12 sub (fxmag (s.reg o.a)) (fxmag (s.load ea)) sg r → 10 ^ 11 ≤ r →
      ∃ t, exec i s = .next t ∧ raisedAs s t 44 [] ∧ inSequence s t) ∧
    ((i, sub) ∈ [(Instr.aax o, false), (.nnx o, true)] →
      sumResult (s.reg o.a).c12 (s.load ea).c12 sub (dfxmag (s.reg o.a) (s.reg (o.a + 1)))
        (dfxmag (s.load ea) (s.load (ea + 1))) sg r → 10 ^ 22 ≤ r →
      ∃ t, exec i s = .next t ∧ raisedAs s t 44 [] ∧ inSequence s t)

/-- A numeric S-digit 1-9 in one operand, not in both, appears unchanged in the result of a single-precision fixed-point
addition or subtraction (R142 (iii), first sentence). The magnitude is a free value (D38; log 25) and nothing is said of it,
nor of an overflow.
(That the meaning goes on is the model's choice; the step refuses it, D38, but in the model's other reading, log 63.) -/
def Obligations.NumericSignCarried : Prop :=
  ∀ (o : Fields) (s : State) (ea : Nat), effM s o = .ok ea → readable s ea = true → s.hasReg o.a = true →
    (numericSign (s.reg o.a).c12 = true → ordinary (s.load ea).c12 = true →
      (∃ t, exec (.ax o) s = .next t ∧ (t.reg o.a).c12 = (s.reg o.a).c12) ∧
      (∃ t, exec (.nx o) s = .next t ∧ (t.reg o.a).c12 = (s.reg o.a).c12)) ∧
    (ordinary (s.reg o.a).c12 = true → numericSign (s.load ea).c12 = true →
      (∃ t, exec (.ax o) s = .next t ∧ (t.reg o.a).c12 = (s.load ea).c12) ∧
      (∃ t, exec (.nx o) s = .next t ∧ (t.reg o.a).c12 = (s.load ea).c12))

/-- Single-precision floating-point addition and subtraction (R145 to R147, R161 to R163, R167, R168). Where the alignment drops
only zeros, `p` and `q` are the two significands at the larger exponent `eh`; the result is normalized, exact but for the digit a
carry drops. 02, 12 and 03 store in A, 04 and 14 in A+1; 03 takes (M) as positive whatever its S-digit is; under a period in
either S-digit the magnitudes are added and the sign is that of the other number. THE MODEL'S CHOICE (log 28): where the
alignment drops another digit the result is `FAddInexact`'s, open in the spec (D21), and is normalized or zero, within one unit
of the last place kept, its sign the plan's or that of the exact sum; an exponent out of range raises 42 or 43 (by name, D17; log
17), not under a period. (A magnitude with a non-numeric character is a free number: D40, log 37.) -/
def Obligations.FloatAdd : Prop :=
  ∀ (o : Fields) (s : State) (ea eh d : Nat) (i : Instr) (sm : Chr) (sub : Bool), effM s o = .ok ea →
    (i, d, sm, sub) ∈ singleSums o (s.load ea) → operandsThere i s ea = true →
    (∀ (p q e f r : Nat) (sg : Chr),
      alignedTo eh (flexp (s.reg o.a)) (flsig (s.reg o.a)) p → alignedTo eh (flexp (s.load ea)) (flsig (s.load ea)) q →
      (eh = flexp (s.reg o.a) ∨ eh = flexp (s.load ea)) →
      sumResult (s.reg o.a).c12 sm sub p q sg r → normalizedSum 9 eh r e f → e ≤ 99 →
      exec i s = .next ((s.setReg d (floatWord sg e f)).next)) ∧
    (∀ el, dropsDigit (flexp (s.reg o.a)) (flsig (s.reg o.a)) (flexp (s.load ea)) (flsig (s.load ea)) eh el →
      inexactStored 9 eh el (s.reg o.a).c12 sm sub (flsig (s.reg o.a) * 10 ^ (flexp (s.reg o.a) - el))
        (flsig (s.load ea) * 10 ^ (flexp (s.load ea) - el)) i s (fun sg f x => s.setReg d (wordOf sg (x ++ dig 9 f))))

/-- Double-precision floating-point addition and subtraction (R144, R145, R147, R165, R170): 20 digits, the exponent in the most
significant half, the sign in both; under a period in the S-digit of either most significant half the magnitudes are added and
the sign is that of the other number. The result is exact, but for the digit a carry drops, where the alignment drops only zeros.
THE MODEL'S CHOICE (log 28): elsewhere it is `FAddInexact`'s, open in the spec (D21), within the bounds of `FloatAdd`, a zero
significand raising 40 (D21) and an exponent out of range 42 or 43 (by name, D17; log 17). (A magnitude with a non-numeric
character is a free number: D40, log 37.) -/
def Obligations.FloatAddDouble : Prop :=
  ∀ (o : Fields) (s : State) (ea eh A M : Nat) (i : Instr) (sub : Bool), effM s o = .ok ea →
    (i, sub) ∈ [(Instr.aa o, false), (.nn o, true)] → sameRegion s.inst ea = true → hasPair s o.a = true →
    A = dflsig (s.reg o.a) (s.reg (o.a + 1)) → M = dflsig (s.load ea) (s.load (ea + 1)) →
    (∀ (p q e f r : Nat) (sg : Chr), alignedTo eh (flexp (s.reg o.a)) A p → alignedTo eh (flexp (s.load ea)) M q →
      (eh = flexp (s.reg o.a) ∨ eh = flexp (s.load ea)) →
      sumResult (s.reg o.a).c12 (s.load ea).c12 sub p q sg r → normalizedSum 20 eh r e f → e ≤ 99 →
      exec i s = .next ((s.setPair o.a (floatWord sg e (f / 10 ^ 11)) (fxWord sg (f % 10 ^ 11))).next)) ∧
    (∀ el, dropsDigit (flexp (s.reg o.a)) A (flexp (s.load ea)) M eh el →
      inexactStored 20 eh el (s.reg o.a).c12 (s.load ea).c12 sub (A * 10 ^ (flexp (s.reg o.a) - el))
        (M * 10 ^ (flexp (s.load ea) - el)) i s
        (fun sg f x => s.setPair o.a (wordOf sg (x ++ dig 9 (f / 10 ^ 11))) (fxWord sg (f % 10 ^ 11))))

/-- The zero result of floating-point addition and subtraction of signed numbers (R150): in single precision nine zeros are
shifted out, so nine is subtracted from the exponent, and contingency 40 is raised after the result is stored where the two
exponents are equal; in double precision 20 is subtracted and 40 is raised on every zero (D21; log 28). With the exponent so
reduced below 00 the exponent underflow 43 is raised as well, its exponent digits not being given (R149). The sign is `0` or `-`
(D18). Under a period in an S-digit the sum of two zero significands is zero with the plan's sign, its exponent not given. THE
MODEL'S CHOICE: that this sum raises nothing is the spec's reading (U9; log 29); of 40 and 43 the outcome is 40 (R481, D43; log
21), and 43 in a sum is by name (D17; log 17). (A magnitude with a non-numeric character is a free number: D40, log 37.) -/
def Obligations.FloatZeroResult : Prop :=
  ∀ (o : Fields) (s : State) (ea eh p q : Nat) (i : Instr), effM s o = .ok ea → operandsThere i s ea = true →
    (∀ d sm sub sg, (i, d, sm, sub) ∈ singleSums o (s.load ea) → flsig (s.reg o.a) = 0 → flsig (s.load ea) = 0 →
      periodSign (s.reg o.a).c12 sm sub = some sg →
      ∃ x : List Chr, x.length = 2 ∧ exec i s = .next ((s.setReg d (wordOf sg (x ++ dig 9 0))).next)) ∧
    (∀ sub sg, (i, sub) ∈ [(Instr.aa o, false), (.nn o, true)] → dflsig (s.reg o.a) (s.reg (o.a + 1)) = 0 →
      dflsig (s.load ea) (s.load (ea + 1)) = 0 → periodSign (s.reg o.a).c12 (s.load ea).c12 sub = some sg →
      ∃ x : List Chr, x.length = 2 ∧ exec i s = .next ((s.setPair o.a (wordOf sg (x ++ dig 9 0)) (fxWord sg 0)).next)) ∧
    (∀ d sm sub, (i, d, sm, sub) ∈ singleSums o (s.load ea) → plain (s.reg o.a).c12 = true → plain sm = true →
      (eh = flexp (s.reg o.a) ∨ eh = flexp (s.load ea)) →
      alignedTo eh (flexp (s.reg o.a)) (flsig (s.reg o.a)) p → alignedTo eh (flexp (s.load ea)) (flsig (s.load ea)) q →
      sumValue (s.reg o.a).c12 sm sub p q = 0 →
      ∃ sg, plain sg = true ∧ resultStored i s (fun x => s.setReg d (wordOf sg (x ++ dig 9 0))) (eh - 9)
        ((if flexp (s.reg o.a) = flexp (s.load ea) then [40] else []) ++ rangeFlags (eh - 9))) ∧
    (∀ sub, (i, sub) ∈ [(Instr.aa o, false), (.nn o, true)] → plain (s.reg o.a).c12 = true → plain (s.load ea).c12 = true →
      (eh = flexp (s.reg o.a) ∨ eh = flexp (s.load ea)) →
      alignedTo eh (flexp (s.reg o.a)) (dflsig (s.reg o.a) (s.reg (o.a + 1))) p →
      alignedTo eh (flexp (s.load ea)) (dflsig (s.load ea) (s.load (ea + 1))) q →
      sumValue (s.reg o.a).c12 (s.load ea).c12 sub p q = 0 →
      ∃ sg, plain sg = true ∧ resultStored i s (fun x => s.setPair o.a (wordOf sg (x ++ dig 9 0)) (fxWord sg 0)) (eh - 20)
        (40 :: rangeFlags (eh - 20)))

/-- Absolute zero as an addend (R151): adding it to a normalized floating-point number, or to a fixed-point number, with sign
`0` or `-` leaves (A) unchanged and raises nothing. -/
def Obligations.AbsoluteZeroAddend : Prop :=
  ∀ (o : Fields) (s : State) (ea : Nat), effM s o = .ok ea → readable s ea = true → s.hasReg o.a = true →
    s.load ea = absoluteZero → plain (s.reg o.a).c12 = true → (slice (s.reg o.a) 11 1).all isNum = true →
    exec (.ax o) s = .next s.next ∧
    (normalized 9 (flsig (s.reg o.a)) = true → exec (.a o) s = .next s.next)

/-- The exponent range of a floating-point sum or difference, single and double precision (R149 (b), 60_exceptions.md R471,
R475): a carry past exponent 99 is the exponent overflow 42; leading zeros shifted out past exponent 00 are the exponent
underflow 43; the significand and sign are stored as computed, the exponent digits are not given (D22); and with a period in
either S-digit nothing is raised. THE MODEL'S CHOICE: 42 and 43 in a sum are paired by name (D17; log 17). (A magnitude with a
non-numeric character is a free number: D40, log 37.) -/
def Obligations.FloatExponentRange : Prop :=
  ∀ (o : Fields) (s : State) (ea eh p q f r : Nat) (e : Int) (i : Instr) (sg : Chr), effM s o = .ok ea →
    operandsThere i s ea = true → (eh = flexp (s.reg o.a) ∨ eh = flexp (s.load ea)) → (e < 0 ∨ 99 < e) →
    (∀ d sm sub, (i, d, sm, sub) ∈ singleSums o (s.load ea) →
      alignedTo eh (flexp (s.reg o.a)) (flsig (s.reg o.a)) p → alignedTo eh (flexp (s.load ea)) (flsig (s.load ea)) q →
      sumResult (s.reg o.a).c12 sm sub p q sg r → normalizedSum 9 eh r e f →
      resultStored i s (fun x => s.setReg d (wordOf sg (x ++ dig 9 f))) e
        (if (periodSign (s.reg o.a).c12 sm sub).isSome then [] else rangeFlags e)) ∧
    (∀ sub, (i, sub) ∈ [(Instr.aa o, false), (.nn o, true)] →
      alignedTo eh (flexp (s.reg o.a)) (dflsig (s.reg o.a) (s.reg (o.a + 1))) p →
      alignedTo eh (flexp (s.load ea)) (dflsig (s.load ea) (s.load (ea + 1))) q →
      sumResult (s.reg o.a).c12 (s.load ea).c12 sub p q sg r → normalizedSum 20 eh r e f →
      resultStored i s (fun x => s.setPair o.a (wordOf sg (x ++ dig 9 (f / 10 ^ 11))) (fxWord sg (f % 10 ^ 11))) e
        (if (periodSign (s.reg o.a).c12 (s.load ea).c12 sub).isSome then [] else rangeFlags e))

/-- A sign anomaly in any arithmetic instruction (R141, R142, R145, R146; 41_arithmetic_mul_div.md R201, R203): a zero is
deposited in the sign of every word of the result, the other characters not being given, and contingency 45 is raised; the
instruction is not suppressed and the sequence's C goes on.
THE MODEL'S CHOICE: 45 is by name (D17; log 17), the other characters are a draw (D48; log 22), and nothing is computed
from the magnitudes, numeric or not (log 37). -/
def Obligations.SignAnomaly : Prop :=
  ∀ (i : Instr) (s : State) (ea : Nat) (sa sm : Chr), effM s i.fields = .ok ea → operandsThere i s ea = true →
    examinedSigns i s ea = some (sa, sm) → anomalousSigns i sa sm = true →
    ∃ t, exec i s = .next t ∧ raisedAs s t 45 [] ∧ inSequence s t ∧ ∀ r ∈ writtenRegs i, (t.reg r).c12 = .d 0

/-! ### Multiplication and division -/

/-- Fixed-point multiplication (41_arithmetic_mul_div.md R201, R203 to R205, R220, R221, R226): 20 stores the product of the
two fractions rounded to eleven digits, exactly when no digit is lost; 21 stores all 22 digits in A'; 26 the upper 22 of 44,
the S-digits of the least significant halves being the ones examined.
(A magnitude with a non-numeric character is a free number: D40, log 37.) -/
def Obligations.FixedMultiply : Prop :=
  ∀ (o : Fields) (s : State) (ea : Nat), effM s o = .ok ea →
    (readable s ea = true → s.hasReg o.a = true → ordinary (s.reg o.a).c12 = true → ordinary (s.load ea).c12 = true →
      ∀ P, P = fxmag (s.reg o.a) * fxmag (s.load ea) →
      (∃ r sg, (r = P / 10 ^ 11 ∨ (P % 10 ^ 11 ≠ 0 ∧ r = P / 10 ^ 11 + 1)) ∧
        productSign (s.reg o.a).c12 (s.load ea).c12 r sg ∧
        exec (.mxr o) s = .next ((s.setReg o.a (fxWord sg r)).next)) ∧
      (s.hasReg (o.a + 1) = true → ∃ sg, productSign (s.reg o.a).c12 (s.load ea).c12 P sg ∧
        exec (.mxe o) s = .next ((s.setPair o.a (fxWord sg (P / 10 ^ 11)) (fxWord sg (P % 10 ^ 11))).next))) ∧
    (sameRegion s.inst ea = true → hasPair s o.a = true →
      ordinary (s.reg (o.a + 1)).c12 = true → ordinary (s.load (ea + 1)).c12 = true →
      ∀ R, R = dfxmag (s.reg o.a) (s.reg (o.a + 1)) * dfxmag (s.load ea) (s.load (ea + 1)) / 10 ^ 22 →
      ∃ sg, productSign (s.reg (o.a + 1)).c12 (s.load (ea + 1)).c12 R sg ∧
        exec (.mmx o) s = .next ((s.setPair o.a (fxWord sg (R / 10 ^ 11)) (fxWord sg (R % 10 ^ 11))).next))

/-- Floating-point multiplication of normalized single-precision numbers with signs `0` and `-` (R201, R204, R206, R222 to
R225; R149 (b)): 23 and 24 keep nine digits unrounded, to A and A+1; 22 is that product rounded; 25 keeps twenty digits in A'. An
exponent above 99 or below 00 raises 42 or 43 after the rest is stored. THE MODEL'S CHOICE: that a product is normalized by one
place is the spec's decision D47 (log 31, DEDUCED), 42 and 43 are by name (D17; log 17). (A magnitude with a non-numeric
character is a free number: D40, log 37.) -/
def Obligations.FloatMultiply : Prop :=
  ∀ (o : Fields) (s : State) (ea f : Nat) (e : Int) (sg : Chr), effM s o = .ok ea → readable s ea = true →
    s.hasReg o.a = true → plain (s.reg o.a).c12 = true → plain (s.load ea).c12 = true →
    normalized 9 (flsig (s.reg o.a)) = true → normalized 9 (flsig (s.load ea)) = true →
    sg = (if (s.reg o.a).c12 = (s.load ea).c12 then .d 0 else .minus) →
    (productDigits 9 9 (flexp (s.reg o.a)) (flsig (s.reg o.a)) (flexp (s.load ea)) (flsig (s.load ea)) e f →
      resultStored (.m o) s (fun x => s.setReg o.a (wordOf sg (x ++ dig 9 f))) e (rangeFlags e) ∧
      (s.hasReg (o.a + 1) = true →
        resultStored (.mu o) s (fun x => s.setReg (o.a + 1) (wordOf sg (x ++ dig 9 f))) e (rangeFlags e)) ∧
      (∃ e' f', roundedFrom e f e' f' ∧
        (f * 10 ^ 9 = flsig (s.reg o.a) * flsig (s.load ea) ∨
          f * 10 ^ 8 = flsig (s.reg o.a) * flsig (s.load ea) → e' = e ∧ f' = f) ∧
        resultStored (.mr o) s (fun x => s.setReg o.a (wordOf sg (x ++ dig 9 f'))) e' (rangeFlags e'))) ∧
    (productDigits 9 20 (flexp (s.reg o.a)) (flsig (s.reg o.a)) (flexp (s.load ea)) (flsig (s.load ea)) e f →
      s.hasReg (o.a + 1) = true →
      resultStored (.me o) s (fun x => s.setPair o.a (wordOf sg (x ++ dig 9 (f / 10 ^ 11))) (fxWord sg (f % 10 ^ 11))) e
        (rangeFlags e))

/-- Double-precision floating-point multiplication of normalized numbers (R203 (ii), R206, R227; R149 (b)): twenty digits
unrounded, the S-digits of the least significant halves examined; an exponent above 99 or below 00 raises 42 or 43. THE MODEL'S
CHOICE: the normalization of products is D47 (log 31, DEDUCED), 42 and 43 are by name (D17; log 17). (A magnitude with a
non-numeric character is a free number: D40, log 37.) -/
def Obligations.FloatMultiplyDouble : Prop :=
  ∀ (o : Fields) (s : State) (ea f : Nat) (e : Int) (sg : Chr), effM s o = .ok ea → sameRegion s.inst ea = true →
    hasPair s o.a = true → plain (s.reg (o.a + 1)).c12 = true → plain (s.load (ea + 1)).c12 = true →
    normalized 20 (dflsig (s.reg o.a) (s.reg (o.a + 1))) = true →
    normalized 20 (dflsig (s.load ea) (s.load (ea + 1))) = true →
    sg = (if (s.reg (o.a + 1)).c12 = (s.load (ea + 1)).c12 then .d 0 else .minus) →
    productDigits 20 20 (flexp (s.reg o.a)) (dflsig (s.reg o.a) (s.reg (o.a + 1)))
      (flexp (s.load ea)) (dflsig (s.load ea) (s.load (ea + 1))) e f →
    resultStored (.mm o) s (fun x => s.setPair o.a (wordOf sg (x ++ dig 9 (f / 10 ^ 11))) (fxWord sg (f % 10 ^ 11))) e
      (rangeFlags e)

/-- A period in an examined S-digit of a floating-point product or quotient (R201 (b), R202, R206, R208): the result's sign is a
period and its exponent 00, whatever exponent was computed, and nothing is raised; in particular any number times absolute zero
(22 to 25 and 27), and absolute zero divided by a normalized number (32, 34, 36 and 37), is absolute zero. THE MODEL'S CHOICE:
that the significand is normalized is D47 (log 31, DEDUCED). (A magnitude with a non-numeric character is a free number: D40,
log 37.) -/
def Obligations.FloatMultiplyPeriod : Prop :=
  ∀ (o : Fields) (s : State) (ea : Nat) (a m : Word) (fa fa' fm fm' : Nat), effM s o = .ok ea →
    a = s.reg o.a → m = s.load ea → fa = flsig a → fm = flsig m → fa' = dflsig a (s.reg (o.a + 1)) →
    fm' = dflsig m (s.load (ea + 1)) → s.hasReg o.a = true → readable s ea = true →
    (ordinary a.c12 = true → ordinary m.c12 = true → (a.c12 = .period ∨ m.c12 = .period) → normalized 9 fm = true →
      (normalized 9 fa = true →
        (∀ f, productSignificand 9 9 fa fm f →
          exec (.m o) s = .next ((s.setReg o.a (floatWord .period 0 f)).next) ∧
          (s.hasReg (o.a + 1) = true → exec (.mu o) s = .next ((s.setReg (o.a + 1) (floatWord .period 0 f)).next)) ∧
          (∃ e f', roundedFrom 0 f e f' ∧ exec (.mr o) s = .next ((s.setReg o.a (floatWord .period 0 f')).next))) ∧
        (∀ f, productSignificand 9 20 fa fm f → s.hasReg (o.a + 1) = true →
          exec (.me o) s = .next ((s.setPair o.a (floatWord .period 0 (f / 10 ^ 11)) (fxWord .period (f % 10 ^ 11))).next)) ∧
        (∀ e f, quotientDigits 9 9 9 (flexp a) fa (flexp m) fm e f → ∃ e' f', roundedFrom e f e' f' ∧
          exec (.dr o) s = .next ((s.setReg o.a (floatWord .period 0 f')).next) ∧
          (s.hasReg (o.a + 1) = true →
            exec (.dur o) s = .next ((s.setReg (o.a + 1) (floatWord .period 0 f')).next)))) ∧
      (∀ e f, normalized 20 fa' = true → quotientDigits 20 9 20 (flexp a) fa' (flexp m) fm e f →
        s.hasReg (o.a + 1) = true →
        exec (.dse o) s = .next ((s.setPair o.a (floatWord .period 0 (f / 10 ^ 11)) (fxWord .period (f % 10 ^ 11))).next)) ∧
      (a = absoluteZero → exec (.dr o) s = .next ((s.setReg o.a absoluteZero).next) ∧
        (s.hasReg (o.a + 1) = true → exec (.dur o) s = .next ((s.setReg (o.a + 1) absoluteZero).next) ∧
          (fxmag (s.reg (o.a + 1)) = 0 → exec (.dse o) s = .next ((s.setPair o.a absoluteZero absoluteZero).next))))) ∧
    (sameRegion s.inst ea = true → s.hasReg (o.a + 1) = true → ordinary m.c12 = true → normalized 20 fm' = true →
      a = absoluteZero → fxmag (s.reg (o.a + 1)) = 0 →
      exec (.dd o) s = .next ((s.setPair o.a absoluteZero absoluteZero).next)) ∧
    (sameRegion s.inst ea = true → s.hasReg (o.a + 1) = true → normalized 20 fa' = true → normalized 20 fm' = true →
      (ordinary (s.reg (o.a + 1)).c12 = true → ordinary (s.load (ea + 1)).c12 = true →
        ((s.reg (o.a + 1)).c12 = .period ∨ (s.load (ea + 1)).c12 = .period) →
        ∀ f, productSignificand 20 20 fa' fm' f →
        exec (.mm o) s = .next ((s.setPair o.a (floatWord .period 0 (f / 10 ^ 11)) (fxWord .period (f % 10 ^ 11))).next)) ∧
      (ordinary a.c12 = true → ordinary m.c12 = true → (a.c12 = .period ∨ m.c12 = .period) →
        ∀ e f, quotientDigits 20 20 20 (flexp a) fa' (flexp m) fm' e f →
        exec (.dd o) s = .next ((s.setPair o.a (floatWord .period 0 (f / 10 ^ 11)) (fxWord .period (f % 10 ^ 11))).next))) ∧
    (ordinary a.c12 = true → ordinary m.c12 = true → (a = absoluteZero ∨ m = absoluteZero) →
      exec (.m o) s = .next ((s.setReg o.a absoluteZero).next) ∧
      exec (.mr o) s = .next ((s.setReg o.a absoluteZero).next) ∧
      (s.hasReg (o.a + 1) = true → exec (.mu o) s = .next ((s.setReg (o.a + 1) absoluteZero).next) ∧
        exec (.me o) s = .next ((s.setPair o.a absoluteZero absoluteZero).next))) ∧
    (sameRegion s.inst ea = true → s.hasReg (o.a + 1) = true → ordinary (s.reg (o.a + 1)).c12 = true →
      ordinary (s.load (ea + 1)).c12 = true →
      ((a = absoluteZero ∧ s.reg (o.a + 1) = absoluteZero) ∨ (m = absoluteZero ∧ s.load (ea + 1) = absoluteZero)) →
      exec (.mm o) s = .next ((s.setPair o.a absoluteZero absoluteZero).next))

/-- Fixed-point division of signed numbers, the dividend below the divisor (R201, R203, R207, R230, R231, R235): the quotient
of eleven or 22 digits, unrounded; 31 leaves the remainder with the sign of the dividend in A+1 (its digits are the spec's
decision D23; log 32).
(A magnitude with a non-numeric character is a free number: D40, log 37.) -/
def Obligations.FixedDivide : Prop :=
  ∀ (o : Fields) (s : State) (ea : Nat), effM s o = .ok ea →
    ordinary (s.reg o.a).c12 = true → ordinary (s.load ea).c12 = true →
    (readable s ea = true → s.hasReg o.a = true → fxmag (s.reg o.a) < fxmag (s.load ea) →
      ∀ Q R, fxmag (s.reg o.a) * 10 ^ 11 = Q * fxmag (s.load ea) + R → R < fxmag (s.load ea) →
      (∃ sg, productSign (s.reg o.a).c12 (s.load ea).c12 Q sg ∧
        exec (.dx o) s = .next ((s.setReg o.a (fxWord sg Q)).next)) ∧
      (s.hasReg (o.a + 1) = true → ∃ sg, productSign (s.reg o.a).c12 (s.load ea).c12 Q sg ∧
        exec (.dxe o) s = .next ((s.setPair o.a (fxWord sg Q) (fxWord (s.reg o.a).c12 R)).next))) ∧
    (sameRegion s.inst ea = true → hasPair s o.a = true →
      ∀ Q R, dfxmag (s.reg o.a) (s.reg (o.a + 1)) < dfxmag (s.load ea) (s.load (ea + 1)) →
      dfxmag (s.reg o.a) (s.reg (o.a + 1)) * 10 ^ 22 = Q * dfxmag (s.load ea) (s.load (ea + 1)) + R →
      R < dfxmag (s.load ea) (s.load (ea + 1)) →
      ∃ sg, productSign (s.reg o.a).c12 (s.load ea).c12 Q sg ∧
        exec (.ddx o) s = .next ((s.setPair o.a (fxWord sg (Q / 10 ^ 11)) (fxWord sg (Q % 10 ^ 11))).next))

/-- Floating-point division of normalized numbers with signs `0` and `-` (R201, R203, R204, R208, R232, R234, R236, R237; R149
(b)): 32 and 34 store the quotient rounded to nine digits, in A and in A+1; 36 and 37 keep twenty digits unrounded in A'. An
exponent above 99 or below 00 raises 42 or 43 after the rest is stored. THE MODEL'S CHOICE: that quotients are normalized is the
spec's decision D47 (log 31, DEDUCED), 42 and 43 are by name (D17; log 17). (A magnitude with a non-numeric character is a free
number: D40, log 37.) -/
def Obligations.FloatDivide : Prop :=
  ∀ (o : Fields) (s : State) (ea f : Nat) (e : Int) (sg : Chr), effM s o = .ok ea → readable s ea = true →
    s.hasReg o.a = true → plain (s.reg o.a).c12 = true → plain (s.load ea).c12 = true →
    sg = (if (s.reg o.a).c12 = (s.load ea).c12 then .d 0 else .minus) →
    (normalized 9 (flsig (s.reg o.a)) = true → normalized 9 (flsig (s.load ea)) = true →
      quotientDigits 9 9 9 (flexp (s.reg o.a)) (flsig (s.reg o.a)) (flexp (s.load ea)) (flsig (s.load ea)) e f →
      ∃ e' f', roundedFrom e f e' f' ∧
        (f * flsig (s.load ea) = flsig (s.reg o.a) * 10 ^ 9 ∨
          f * flsig (s.load ea) = flsig (s.reg o.a) * 10 ^ 8 → e' = e ∧ f' = f) ∧
        resultStored (.dr o) s (fun x => s.setReg o.a (wordOf sg (x ++ dig 9 f'))) e' (rangeFlags e') ∧
        (s.hasReg (o.a + 1) = true →
          resultStored (.dur o) s (fun x => s.setReg (o.a + 1) (wordOf sg (x ++ dig 9 f'))) e' (rangeFlags e'))) ∧
    (s.hasReg (o.a + 1) = true → normalized 20 (dflsig (s.reg o.a) (s.reg (o.a + 1))) = true →
      (normalized 9 (flsig (s.load ea)) = true →
        quotientDigits 20 9 20 (flexp (s.reg o.a)) (dflsig (s.reg o.a) (s.reg (o.a + 1)))
          (flexp (s.load ea)) (flsig (s.load ea)) e f →
        resultStored (.dse o) s (fun x => s.setPair o.a (wordOf sg (x ++ dig 9 (f / 10 ^ 11))) (fxWord sg (f % 10 ^ 11)))
          e (rangeFlags e)) ∧
      (sameRegion s.inst ea = true → normalized 20 (dflsig (s.load ea) (s.load (ea + 1))) = true →
        quotientDigits 20 20 20 (flexp (s.reg o.a)) (dflsig (s.reg o.a) (s.reg (o.a + 1)))
          (flexp (s.load ea)) (dflsig (s.load ea) (s.load (ea + 1))) e f →
        resultStored (.dd o) s (fun x => s.setPair o.a (wordOf sg (x ++ dig 9 (f / 10 ^ 11))) (fxWord sg (f % 10 ^ 11)))
          e (rangeFlags e)))

/-- The contingencies of division (R207, R208, 60_exceptions.md R471; FF 44 and FF 41 are the spec's readings by name, D24,
log 33): a fixed-point dividend not below the divisor, a zero divisor included, raises 44; a non-normalized floating-point
divisor raises 41. Control then goes on from the next address.
(A magnitude with a non-numeric character is a free number: D40, log 37.) -/
def Obligations.DivideContingencies : Prop :=
  ∀ (o : Fields) (s : State) (ea : Nat), effM s o = .ok ea →
    ordinary (s.reg o.a).c12 = true → ordinary (s.load ea).c12 = true →
    (readable s ea = true → s.hasReg o.a = true → fxmag (s.load ea) ≤ fxmag (s.reg o.a) →
      (∃ t, exec (.dx o) s = .next t ∧ raisedAs s t 44 [] ∧ inSequence s t) ∧
      (s.hasReg (o.a + 1) = true → ∃ t, exec (.dxe o) s = .next t ∧ raisedAs s t 44 [] ∧ inSequence s t)) ∧
    (readable s ea = true → s.hasReg o.a = true → flsig (s.load ea) < 10 ^ 8 →
      (∃ t, exec (.dr o) s = .next t ∧ raisedAs s t 41 [] ∧ inSequence s t) ∧
      (s.hasReg (o.a + 1) = true →
        (∃ t, exec (.dur o) s = .next t ∧ raisedAs s t 41 [] ∧ inSequence s t) ∧
        (∃ t, exec (.dse o) s = .next t ∧ raisedAs s t 41 [] ∧ inSequence s t))) ∧
    (sameRegion s.inst ea = true → hasPair s o.a = true →
      (dfxmag (s.load ea) (s.load (ea + 1)) ≤ dfxmag (s.reg o.a) (s.reg (o.a + 1)) →
        ∃ t, exec (.ddx o) s = .next t ∧ raisedAs s t 44 [] ∧ inSequence s t) ∧
      (dflsig (s.load ea) (s.load (ea + 1)) < 10 ^ 19 →
        ∃ t, exec (.dd o) s = .next t ∧ raisedAs s t 41 [] ∧ inSequence s t))

/-! ### Data transfer -/

/-- The stores 40, 42, 45 and 47 (42_data_transfer.md R260, R261, R263, R265, R267): the words of (A) or (A') are at M or M'
afterwards, 42 and 47 with a zero for the sign whatever character it was; every other address reads as before and A and A+1
are as they were where they are not themselves M. A = 00 supplies absolute zero to 40 and 42. -/
def Obligations.Stores : Prop :=
  ∀ (o : Fields) (s : State) (ea : Nat), effM s o = .ok ea → s.mem.wf = true →
    (writable s ea = true → canSupply s o.a = true →
      (∃ t, exec (.s o) s = .next t ∧ inSequence s t ∧ t.ff = s.ff ∧
        ∀ b, t.load b = if b = ea then s.reg o.a else s.load b) ∧
      (∃ t, exec (.sm o) s = .next t ∧ inSequence s t ∧ t.ff = s.ff ∧
        ∀ b, t.load b = if b = ea then { s.reg o.a with c12 := .d 0 } else s.load b)) ∧
    (sameRegion s.inst ea = true → hasPair s o.a = true →
      (∃ t, exec (.ss o) s = .next t ∧ inSequence s t ∧ t.ff = s.ff ∧
        ∀ b, t.load b = if b = ea + 1 then s.reg (o.a + 1) else if b = ea then s.reg o.a else s.load b) ∧
      (∃ t, exec (.ssm o) s = .next t ∧ inSequence s t ∧ t.ff = s.ff ∧
        ∀ b, t.load b = if b = ea + 1 then { s.reg (o.a + 1) with c12 := .d 0 }
          else if b = ea then { s.reg o.a with c12 := .d 0 } else s.load b))

/-- The negative stores 41 and 46 (R260 (b), (d), R262, R266): a word with sign `0`, `-` or period is stored with `-`, `0` and
the period unaltered, each half on its own; with any other sign in a stored word, a zero is deposited in its sign, the other half
of a pair being stored as it would be by itself, and contingency 45 is raised after the store (FF 45 by name, D17; log 17). The
eleven characters below an anomalous sign are not given (D48; log 22). -/
def Obligations.NegativeStores : Prop :=
  ∀ (o : Fields) (s : State) (ea : Nat) (n : Word → Word), effM s o = .ok ea → s.mem.wf = true →
    (∀ w : Word, (w.c12 = .d 0 → n w = { w with c12 := .minus }) ∧ (w.c12 = .minus → n w = { w with c12 := .d 0 }) ∧
      (w.c12 = .period → n w = w)) →
    (writable s ea = true → canSupply s o.a = true →
      (ordinary (s.reg o.a).c12 = true → ∃ t, exec (.sn o) s = .next t ∧ inSequence s t ∧ t.ff = s.ff ∧
        ∀ b, t.load b = if b = ea then n (s.reg o.a) else s.load b) ∧
      (ordinary (s.reg o.a).c12 = false → ∃ t, exec (.sn o) s = .next t ∧ inSequence s t ∧ raisedAs s t 45 [] ∧
        (t.load ea).c12 = .d 0 ∧ ∀ b, b ≠ ea → t.load b = s.load b)) ∧
    (sameRegion s.inst ea = true → hasPair s o.a = true →
      ∃ t, exec (.ssn o) s = .next t ∧ inSequence s t ∧
        (ordinary (s.reg o.a).c12 = true → t.load ea = n (s.reg o.a)) ∧
        (ordinary (s.reg (o.a + 1)).c12 = true → t.load (ea + 1) = n (s.reg (o.a + 1))) ∧
        (ordinary (s.reg o.a).c12 = false → (t.load ea).c12 = .d 0) ∧
        (ordinary (s.reg (o.a + 1)).c12 = false → (t.load (ea + 1)).c12 = .d 0) ∧
        (∀ b, b ≠ ea → b ≠ ea + 1 → t.load b = s.load b) ∧
        (if ordinary (s.reg o.a).c12 = true ∧ ordinary (s.reg (o.a + 1)).c12 = true then t.ff = s.ff ∧ t.trap = s.trap
          else raisedAs s t 45 []))

/-- The fetches 43 and 48 (R264, R268): (M) to A, (M') to A', all characters without restriction, both words of M' read
before either register is written; core storage and the flip-flops stay. -/
def Obligations.Fetches : Prop :=
  ∀ (o : Fields) (s : State) (ea : Nat), effM s o = .ok ea →
    (readable s ea = true → s.hasReg o.a = true → exec (.f o) s = .next ((s.setReg o.a (s.load ea)).next)) ∧
    (sameRegion s.inst ea = true → hasPair s o.a = true →
      ∃ t, exec (.ff o) s = .next t ∧ inSequence s t ∧ t.mem = s.mem ∧ t.ff = s.ff ∧ t.reg o.a = s.load ea ∧ t.reg (o.a + 1) = s.load (ea + 1) ∧
        ∀ r, r ≠ o.a → r ≠ o.a + 1 → t.reg r = s.reg r)

/-- The extract-part instructions (R270 to R275): 60 copies positions 12-10 of (M) into the same positions of (A), 61 9-8,
62 7-6, 63 9-6, 64 5-1; all other positions of (A) stay. -/
def Obligations.ExtractPart : Prop :=
  ∀ (o : Fields) (s : State) (ea : Nat) (m a : Word), effM s o = .ok ea → readable s ea = true → s.hasReg o.a = true →
    m = s.load ea → a = s.reg o.a →
    exec (.eop o) s = .next ((s.setReg o.a { a with c12 := m.c12, c11 := m.c11, c10 := m.c10 }).next) ∧
    exec (.ea o) s = .next ((s.setReg o.a { a with c9 := m.c9, c8 := m.c8 }).next) ∧
    exec (.eb o) s = .next ((s.setReg o.a { a with c7 := m.c7, c6 := m.c6 }).next) ∧
    exec (.eab o) s = .next ((s.setReg o.a { a with c9 := m.c9, c8 := m.c8, c7 := m.c7, c6 := m.c6 }).next) ∧
    exec (.em o) s =
      .next ((s.setReg o.a { a with c5 := m.c5, c4 := m.c4, c3 := m.c3, c2 := m.c2, c1 := m.c1 }).next)

/-- 93 stores the address in C2 (R290): at a core address the word `9 90 00 00 mmmmm`, in a fast register `0 00 00 00 mmmmm`
(C9, D41), mmmmm being (C2); C2 is unchanged. -/
def Obligations.StoreC2 : Prop :=
  ∀ (o : Fields) (s : State) (ea : Nat) (z : List Chr), effM s o = .ok ea → s.mem.wf = true →
    z = [.d 0, .d 0, .d 0, .d 0] →
    (region s.inst ea = .core → ∃ t, exec (.slj o) s = .next t ∧ inSequence s t ∧ t.ff = s.ff ∧
      ∀ b, t.load b = if b = ea then Word.ofChars (.d 9 :: .d 9 :: .d 0 :: z ++ dig 5 s.c2) else s.load b) ∧
    (∀ r, region s.inst ea = .fast r → ∃ t, exec (.slj o) s = .next t ∧ inSequence s t ∧ t.ff = s.ff ∧
      t.reg r = Word.ofChars (.d 0 :: .d 0 :: .d 0 :: z ++ dig 5 s.c2) ∧ ∀ b, b ≠ ea → t.load b = s.load b)

/-! ### Transfers of control -/

/-- 70 and 71 (43_conditional_transfer.md R301 to R303, R310, R311): with no blocking sign, 70 transfers when the two words'
keys are equal and 71 when that of (A) is greater; of two equal keys with one minus sign (a minus zero against a zero) the
source leaves equality open, but (A) is never the greater when the minus is its own. The key: a period counts as a zero; a
numeric sign other than zero makes the word greater than every word with sign `0`, period or minus; words with numeric signs
compare as twelve-digit numbers; signed words as their values.
(The effective M-digits in C2 where no transfer is made: D46, log 46.)
(A magnitude with a non-numeric character is a free number: D40, log 37.) -/
def Obligations.CompareWords : Prop :=
  (∀ (o : Fields) (s : State) (ea : Nat) (u w : Word), effM s o = .ok ea → hasPair s o.a = true →
    u = s.reg o.a → w = s.reg (o.a + 1) → foreignSign u.c12 = false → foreignSign w.c12 = false →
    ((key u = key w → (u.c12 = .minus ↔ w.c12 = .minus)) →
      exec (.te o) s = .next (s.branch (decide (key u = key w)) ea) ∧
      exec (.tg o) s = .next (s.branch (decide (key w < key u)) ea)) ∧
    (key u = key w → u.c12 = .minus → exec (.tg o) s = .next (s.branch false ea)) ∧
    (∃ b, exec (.te o) s = .next (s.branch b ea)) ∧ (∃ b, exec (.tg o) s = .next (s.branch b ea))) ∧
  (∀ u w : Word,
    (u.c12 = .period → key u = key { u with c12 := .d 0 }) ∧
    (numericSign u.c12 = true → ordinary w.c12 = true → key w < key u) ∧
    ((slice u 12 1).all isNum = true → (slice w 12 1).all isNum = true →
      (key u < key w ↔ num (slice u 12 1) < num (slice w 12 1))) ∧
    (plain u.c12 = true → key u = fixedValue u))

/-- 72, 73 and 74 (R301, R302, R312 to R314): 72 transfers when the eleven digits are zero, under sign `0`, `-` or period; 73
when the number is positive, a numeric sign 1-9 making it so; 74 when the S-digit is a minus sign. A = 00 supplies absolute
zero.
(The effective M-digits in C2 where no transfer is made: D46, log 46.)
(A magnitude with a non-numeric character is a free number: D40, log 37.) -/
def Obligations.ZeroTests : Prop :=
  ∀ (o : Fields) (s : State) (ea : Nat) (u : Word), effM s o = .ok ea → canSupply s o.a = true → u = s.reg o.a →
    (ordinary u.c12 = true → exec (.tz o) s = .next (s.branch (decide (fxmag u = 0)) ea)) ∧
    (foreignSign u.c12 = false →
      exec (.tgz o) s = .next (s.branch (numericSign u.c12 || (decide (u.c12 ≠ .minus) && decide (0 < fxmag u))) ea) ∧
      exec (.tlz o) s = .next (s.branch (decide (u.c12 = .minus)) ea))

/-- 75 and 76 (R301, R302, R315, R316): 75 transfers when all twenty-four positions are equal digit by digit, a period in an
S-digit counting as a zero; 76 when the most significant half of (A') is the greater, or it is equal and the least
significant half is the greater.
(The effective M-digits in C2 where no transfer is made: D46, log 46.)
(A magnitude with a non-numeric character is a free number: D40, log 37.) -/
def Obligations.ComparePairs : Prop :=
  ∀ (o : Fields) (s : State) (ea : Nat) (u v w z : Word), effM s o = .ok ea →
    hasPair s o.a = true → hasPair s (o.a + 2) = true →
    u = s.reg o.a → v = s.reg (o.a + 1) → w = s.reg (o.a + 2) → z = s.reg (o.a + 3) →
    foreignSign u.c12 = false → foreignSign v.c12 = false → foreignSign w.c12 = false → foreignSign z.c12 = false →
    exec (.tte o) s = .next (s.branch (sameSign u.c12 w.c12 && sameSign v.c12 z.c12 &&
      decide (slice u 11 1 = slice w 11 1 ∧ slice v 11 1 = slice z 11 1)) ea) ∧
    (key w < key u → exec (.ttg o) s = .next (s.branch true ea)) ∧
    (key u < key w → exec (.ttg o) s = .next (s.branch false ea)) ∧
    (key u = key w → (u.c12 = .minus ↔ w.c12 = .minus) → (key v = key z → (v.c12 = .minus ↔ z.c12 = .minus)) →
      exec (.ttg o) s = .next (s.branch (decide (key z < key v)) ea))

/-- A blocked comparison (R300, R302, R312; 60_exceptions.md R473): a non-numeric S-digit other than minus and period in any
word examined, for 72 a numeric one other than zero as well, blocks the transfer: C goes on in sequence, C2 gets the
effective M-digits, no register and no storage word changes, and contingency 45 is raised. THE MODEL'S CHOICE: that C is stepped
and C2 written in a blocked test is C20 of 90_conflicts.md (log 55, DEDUCED) with D46 (log 46), and 45 is by name (D17; log 17). -/
def Obligations.BlockedComparison : Prop :=
  ∀ (i : Instr) (o : Fields) (s : State) (ea : Nat), effM s o = .ok ea → operandsThere i s ea = true →
    (i ∈ [Instr.te o, .tg o] ∧ (foreignSign (s.reg o.a).c12 || foreignSign (s.reg (o.a + 1)).c12) = true ∨
      i = .tz o ∧ ordinary (s.reg o.a).c12 = false ∨
      i ∈ [Instr.tgz o, .tlz o] ∧ foreignSign (s.reg o.a).c12 = true ∨
      i ∈ [Instr.tte o, .ttg o] ∧ (foreignSign (s.reg o.a).c12 || foreignSign (s.reg (o.a + 1)).c12 ||
        foreignSign (s.reg (o.a + 2)).c12 || foreignSign (s.reg (o.a + 3)).c12) = true) →
    ∃ t, exec i s = .next t ∧ raisedAs s t 45 [] ∧ t.pc = succAddr s.inst s.pc ∧ t.c2 = ea ∧ t.x = s.x ∧ t.mem = s.mem

/-- 95 tests the flip-flop its A-digits number (R318; 10_state.md R34, R37): it transfers when that flip-flop is set and
changes none; a number the table of B-6 does not define is refused (D36).
(The effective M-digits in C2 where no transfer is made: D46, log 46.) -/
def Obligations.TestFlipFlop : Prop :=
  ∀ (o : Fields) (s : State) (ea : Nat), effM s o = .ok ea →
    (permitted (.tf o) = true → exec (.tf o) s = .next (s.branch (s.flag o.a) ea)) ∧
    (o.a ∈ [12, 13, 14, 16, 17, 18, 19, 35, 36, 37, 83, 85, 86, 87, 88, 89, 91, 92, 93, 94, 95, 96, 97] →
      exec (.tf o) s = .refused (.flipFlopOperation o.a))

/-- 90, 91 and 92 (44_unconditional_transfer.md R340, R342 to R344): C2 gets (C)+1; 90 goes to M; 91 stores the word
`9 90 00 00 ccccc` with (C)+1 at M and goes to M+1; 92 puts (C) into the M-digits of register A, leaves its other seven
positions, and goes to M, formed from the old contents.
THE MODEL'S CHOICE: the word of 91 is an inference the spec marks as derived (R343; log 58, DEDUCED). -/
def Obligations.Transfers : Prop :=
  ∀ (o : Fields) (s : State) (ea : Nat) (z : List Chr), effM s o = .ok ea → sameRegion s.inst s.pc = true →
    z = [.d 0, .d 0, .d 0, .d 0] →
    exec (.t o) s = .next { s with pc := ea, c2 := s.pc + 1 } ∧
    (s.mem.wf = true → sameRegion s.inst ea = true → ∃ t, exec (.tr o) s = .next t ∧ t.pc = ea + 1 ∧ t.c2 = s.pc + 1 ∧
      t.ff = s.ff ∧
      ∀ b, t.load b = if b = ea then Word.ofChars (.d 9 :: .d 9 :: .d 0 :: z ++ dig 5 (s.pc + 1)) else s.load b) ∧
    (s.hasReg o.a = true → ∃ w, w.chars = (s.reg o.a).chars.take 7 ++ dig 5 s.pc ∧
      exec (.tb o) s = .next { s.setReg o.a w with pc := ea, c2 := s.pc + 1 })

/-! ### Shifts, extracts, conversions -/

/-- The shifts (45_shift.md R360 to R366). 52, 53, 57 and 58: COUNT characters of the eleven below the sign, of the 22 below
the two signs, are lost on one side and zeros filled in on the other; the sign characters stay in their words; a count above
eleven, above 22, empties them. The circular shift 59: all 24 characters, signs included, rotate left COUNT mod 24 places. (The count is taken after B-modification: D26, log 35.) -/
def Obligations.Shifts : Prop :=
  (∀ (o : Fields) (s : State) (ea k : Nat) (a : Word), effM s o = .ok ea → s.hasReg o.a = true → a = s.reg o.a →
    k = min (ea % 100) 11 →
    exec (.pr o) s = .next ((s.setReg o.a (wordOf a.c12 (zeros k ++ slice a 11 (k + 1)))).next) ∧
    exec (.pl o) s = .next ((s.setReg o.a (wordOf a.c12 (slice a (11 - k) 1 ++ zeros k))).next)) ∧
  (∀ (o : Fields) (s : State) (ea k : Nat) (h l : Word) (d : List Chr), effM s o = .ok ea → hasPair s o.a = true →
    h = s.reg o.a → l = s.reg (o.a + 1) → d = slice h 11 1 ++ slice l 11 1 → k = min (ea % 100) 22 →
    (∃ u w, exec (.ppr o) s = .next ((s.setPair o.a u w).next) ∧ u.c12 = h.c12 ∧ w.c12 = l.c12 ∧
      slice u 11 1 ++ slice w 11 1 = zeros k ++ d.take (22 - k)) ∧
    (∃ u w, exec (.ppl o) s = .next ((s.setPair o.a u w).next) ∧ u.c12 = h.c12 ∧ w.c12 = l.c12 ∧
      slice u 11 1 ++ slice w 11 1 = d.drop k ++ zeros k)) ∧
  (∀ (o : Fields) (s : State) (ea : Nat) (r : List Chr), effM s o = .ok ea → hasPair s o.a = true →
    r = (s.reg o.a).chars ++ (s.reg (o.a + 1)).chars →
    ∃ u w, exec (.ppc o) s = .next ((s.setPair o.a u w).next) ∧ u.chars ++ w.chars = r.rotateLeft (ea % 100))

/-- The notation of the shifts, (A)·10^-M and (A)·10^M (R362 to R365): on numeric characters a right shift divides the
magnitude by ten to the count, digits lost, and a left shift multiplies it, digits beyond the top lost.
(The count and the scale factor are taken after B-modification: D26, log 35.) -/
def Obligations.ShiftArithmetic : Prop :=
  ∀ (o : Fields) (s : State) (ea k : Nat), effM s o = .ok ea → k = ea % 100 →
    (s.hasReg o.a = true → (slice (s.reg o.a) 11 1).all isNum = true →
      (∃ t, exec (.pr o) s = .next t ∧ fxmag (t.reg o.a) = fxmag (s.reg o.a) / 10 ^ k) ∧
      (∃ t, exec (.pl o) s = .next t ∧ fxmag (t.reg o.a) = fxmag (s.reg o.a) * 10 ^ k % 10 ^ 11)) ∧
    (hasPair s o.a = true → (slice (s.reg o.a) 11 1).all isNum = true →
      (slice (s.reg (o.a + 1)) 11 1).all isNum = true →
      (∃ t, exec (.ppr o) s = .next t ∧
        dfxmag (t.reg o.a) (t.reg (o.a + 1)) = dfxmag (s.reg o.a) (s.reg (o.a + 1)) / 10 ^ k) ∧
      (∃ t, exec (.ppl o) s = .next t ∧
        dfxmag (t.reg o.a) (t.reg (o.a + 1)) = dfxmag (s.reg o.a) (s.reg (o.a + 1)) * 10 ^ k % 10 ^ 22))

/-- The extracts 65 and 66 (46_extract.md R380 to R382): in every position where (M) holds a ONE, or a minus sign in the sign
position, the character of register A becomes that of A-1 or of A+1; every other stays. -/
def Obligations.ExtractPattern : Prop :=
  ∀ (o : Fields) (s : State) (ea : Nat) (m a : Word) (r : Word → List Chr), effM s o = .ok ea → readable s ea = true →
    s.hasReg o.a = true → m = s.load ea → a = s.reg o.a →
    r = (fun x => (List.range 12).map fun j =>
      if m.chars[j]? = some (.d 1) ∨ (j = 0 ∧ m.c12 = .minus) then x.chars.getD j .minus else a.chars.getD j .minus) →
    (s.hasReg (o.a - 1) = true →
      ∃ w, exec (.el o) s = .next ((s.setReg o.a w).next) ∧ w.chars = r (s.reg (o.a - 1))) ∧
    (s.hasReg (o.a + 1) = true →
      ∃ w, exec (.eu o) s = .next ((s.setReg o.a w).next) ∧ w.chars = r (s.reg (o.a + 1)))

/-- Floating to fixed point (47_conversion.md R390 to R392, R395, R397): with the exponent at most the scale factor, the
significand at the top of the field moves right by scale factor minus exponent, digits past position 1 lost; each sign
character is carried forward (for the pair D50; log 48).
(The count and the scale factor are taken after B-modification: D26, log 35.)
(A magnitude with a non-numeric character is a free number: D40, log 37.) -/
def Obligations.FloatToFixed : Prop :=
  ∀ (o : Fields) (s : State) (ea sf d : Nat) (h l : Word), effM s o = .ok ea → s.hasReg o.a = true → sf = ea % 100 →
    h = s.reg o.a → l = s.reg (o.a + 1) → flexp h + d = sf →
    exec (.cx o) s = .next ((s.setReg o.a (fxWord h.c12 (flsig h * 100 / 10 ^ d))).next) ∧
    (s.hasReg (o.a + 1) = true → exec (.ccx o) s = .next
      ((s.setPair o.a (fxWord h.c12 (dflsig h l * 100 / 10 ^ d / 10 ^ 11))
        (fxWord l.c12 (dflsig h l * 100 / 10 ^ d % 10 ^ 11))).next))

/-- Fixed to floating point of a number that is not zero (R390, R391, R393, R396): the magnitude is normalized by shifting out
its z leading zeros, the exponent is the scale factor minus z, and the two low digits are dropped; the sign characters are
carried forward (for the pair D50; log 48). With the exponent so reduced below 00, contingency 43 is raised after the rest is
stored, the exponent digits not being given (R149). (The scale factor is taken after B-modification: D26, log 35. A magnitude with
a non-numeric character is a free number: D40, log 37.) -/
def Obligations.FixedToFloat : Prop :=
  ∀ (o : Fields) (s : State) (ea sf z x : Nat) (e : Int) (h l : Word), effM s o = .ok ea → s.hasReg o.a = true →
    sf = ea % 100 → h = s.reg o.a → l = s.reg (o.a + 1) → e + z = sf →
    (x = fxmag h * 10 ^ z → 10 ^ 10 ≤ x → x < 10 ^ 11 →
      resultStored (.c o) s (fun y => s.setReg o.a (wordOf h.c12 (y ++ dig 9 (x / 100)))) e (rangeFlags e)) ∧
    (s.hasReg (o.a + 1) = true → x = dfxmag h l * 10 ^ z → 10 ^ 21 ≤ x → x < 10 ^ 22 →
      resultStored (.cc o) s
        (fun y => s.setPair o.a (wordOf h.c12 (y ++ dig 9 (x / 100 / 10 ^ 11))) (fxWord l.c12 (x / 100 % 10 ^ 11))) e
        (rangeFlags e))

/-- The conversion of a fixed-point zero by 51 and 56 (R394, R396): eleven is subtracted from the scale factor, for the pair 22
(D50; log 48), the significand is zero, each sign is carried forward, and contingency 40 is raised after the result is stored;
with a scale factor below that, 43 as well, the exponent digits then not being given. THE MODEL'S CHOICE: of 40 and 43 the outcome
is 40 (R481, D43; log 21). (The scale factor is taken after B-modification: D26, log 35. A magnitude with a non-numeric character
is a free number: D40, log 37.) -/
def Obligations.ConvertZero : Prop :=
  ∀ (o : Fields) (s : State) (ea sf : Nat) (h l : Word), effM s o = .ok ea → s.hasReg o.a = true → sf = ea % 100 →
    h = s.reg o.a → l = s.reg (o.a + 1) →
    (fxmag h = 0 → resultStored (.c o) s (fun y => s.setReg o.a (wordOf h.c12 (y ++ dig 9 0))) (sf - 11)
      (40 :: rangeFlags (sf - 11))) ∧
    (s.hasReg (o.a + 1) = true → dfxmag h l = 0 →
      resultStored (.cc o) s (fun y => s.setPair o.a (wordOf h.c12 (y ++ dig 9 0)) (fxWord l.c12 0)) (sf - 22)
        (40 :: rangeFlags (sf - 22)))

/-! ### Index registers -/

/-- The index-register modifications (48_index_register.md R420 to R429). 80 to 83: the cycle count is reduced by one, 000
going to 999, the address modifier steps by DDDD up (80, 82) or down (81, 83), DDDD stays, and the new count decides the
transfer: 80 and 81 transfer while it is not zero, 82 and 83 when it is. 85 and 86 step the address modifier alone, the other
seven positions staying. THE MODEL'S CHOICE: where the step leaves five digits, positions 9-1 are free and count and transfer are
as ever (D27; log 36). (The effective M-digits in C2 where no transfer is made: D46, log 46. An index word that is not numeric
spells free numbers: D28, log 37.) -/
def Obligations.IndexRegisters : Prop :=
  ∀ (o : Fields) (s : State) (ea d v : Nat), effM s o = .ok ea → s.hasReg o.a = true →
    slice (s.reg o.a) 9 6 = dig 4 d → d < 10000 → slice (s.reg o.a) 5 1 = dig 5 v → v < 100000 →
    (∀ (n n' : Nat) (w : Nat → Word), slice (s.reg o.a) 12 10 = dig 3 n → n < 1000 →
      n' = (if n = 0 then 999 else n - 1) → (∀ y, w y = Word.ofChars (dig 3 n' ++ dig 4 d ++ dig 5 y)) →
      (v + d ≤ 99999 →
        exec (.bit o) s = .next ((s.setReg o.a (w (v + d))).branch (decide (n' ≠ 0)) ea) ∧
        exec (.bic o) s = .next ((s.setReg o.a (w (v + d))).branch (decide (n' = 0)) ea)) ∧
      (d ≤ v →
        exec (.bdt o) s = .next ((s.setReg o.a (w (v - d))).branch (decide (n' ≠ 0)) ea) ∧
        exec (.bdc o) s = .next ((s.setReg o.a (w (v - d))).branch (decide (n' = 0)) ea)) ∧
      (∀ i ∈ [Instr.bit o, .bdt o], ∃ u, slice u 12 10 = dig 3 n' ∧
        exec i s = .next ((s.setReg o.a u).branch (decide (n' ≠ 0)) ea)) ∧
      (∀ i ∈ [Instr.bic o, .bdc o], ∃ u, slice u 12 10 = dig 3 n' ∧
        exec i s = .next ((s.setReg o.a u).branch (decide (n' = 0)) ea))) ∧
    (∀ w : Nat → Word, (∀ y, w y = Word.ofChars ((s.reg o.a).chars.take 7 ++ dig 5 y)) →
      (v + d ≤ 99999 → exec (.bi o) s = .next ((s.setReg o.a (w (v + d))).next)) ∧
      (d ≤ v → exec (.bd o) s = .next ((s.setReg o.a (w (v - d))).next))) ∧
    (∀ i ∈ [Instr.bi o, .bd o], ∃ u, slice u 12 10 = slice (s.reg o.a) 12 10 ∧ exec i s = .next ((s.setReg o.a u).next))

/-! ### Display registers, flip-flops, skip -/

/-- The display instructions (49_display_misc.md R440 to R444; 10_state.md R40 to R42). The fetches 09 and 19 are done with
Interlock set, and reset Interlock and Connect; the stores 29 and 39 are done with Interlock reset and leave both. Done, they
leave the effective M-digits in C2 and go on in sequence; otherwise they transfer to M, (C)+1 to C2. What positions 12-6 of A
receive from 09 is not given (D42; log 44). A = 00 supplies absolute zero to the stores.
What the other display register holds after a store is open (R40), a free value (log 64).
THE MODEL'S CHOICE: that 29 and 39 leave Interlock and Connect is log 51 (DEDUCED, with D35), and the effective M-digits in C2 are D46 (log 46). -/
def Obligations.DisplayRegisters : Prop :=
  ∀ (o : Fields) (s : State) (ea : Nat), effM s o = .ok ea →
    (s.hasReg o.a = true → s.interlock = true →
      (∃ w, slice w 5 1 = s.vd5.chars ∧ exec (.fv o) s = .next { s.setReg o.a w with
        interlock := false, connect := false, c2 := ea, pc := succAddr s.inst s.pc }) ∧
      exec (.fvk o) s = .next { s.setReg o.a s.vd12 with
        interlock := false, connect := false, c2 := ea, pc := succAddr s.inst s.pc }) ∧
    (s.hasReg o.a = true → s.interlock = false →
      exec (.fv o) s = .next { s with c2 := succAddr s.inst s.pc, pc := ea } ∧
      exec (.fvk o) s = .next { s with c2 := succAddr s.inst s.pc, pc := ea }) ∧
    (canSupply s o.a = true → s.interlock = false →
      (∃ v d, v.chars = slice (s.reg o.a) 5 1 ∧
        exec (.sv o) s = .next { s with vd5 := v, vd12 := d, c2 := ea, pc := succAddr s.inst s.pc }) ∧
      ∃ v, exec (.svk o) s = .next { s with vd12 := s.reg o.a, vd5 := v, c2 := ea, pc := succAddr s.inst s.pc }) ∧
    (canSupply s o.a = true → s.interlock = true →
      exec (.sv o) s = .next { s with c2 := succAddr s.inst s.pc, pc := ea } ∧
      exec (.svk o) s = .next { s with c2 := succAddr s.inst s.pc, pc := ea })

/-- Instruction 00 goes on to the next instruction and changes nothing else (R445); its effective address is still formed, so
an index register that is missing stops even it.
THE MODEL'S CHOICE: the refusal is D7 (log 40), and that 00 forms its address at all is an inference (log 62). -/
def Obligations.Skip : Prop :=
  ∀ (o : Fields) (s : State),
    (∀ ea, effM s o = .ok ea → exec (.sk o) s = .next { s with pc := succAddr s.inst s.pc }) ∧
    (o.b ≠ 0 → s.hasReg o.b = false → exec (.sk o) s = .refused (.missingRegister o.b))

/-- 96 resets the flip-flop its A-digits number (R446; 10_state.md R34, R36, R37; 60_exceptions.md R480): 71 to 82 are reset
with it when none of the fourteen odd-even flip-flops is then set, and 98 and 99 become the disjunctions of their groups; every
other flip-flop stays. Without an R mark it is refused (D36).
THE MODEL'S CHOICE: that 98 and 99 are those disjunctions, recomputed here, is
the spec's reading D16 (log 20, DEDUCED); the refusal is log 43. -/
def Obligations.ResetFlipFlop : Prop :=
  ∀ (o : Fields) (s : State) (ea : Nat), effM s o = .ok ea →
    (permitted (.rf o) = true → ∃ t, exec (.rf o) s = .next t ∧ inSequence s t ∧ t.x = s.x ∧ t.mem = s.mem ∧
      t.flag o.a = false ∧
      (∀ k, k ≠ o.a → k ∉ digitFlags → k ≠ 98 → k ≠ 99 → t.flag k = s.flag k) ∧
      ((∀ k ∈ oddEvenFlags, t.flag k = false) → ∀ k ∈ digitFlags, t.flag k = false) ∧
      ((∃ k ∈ oddEvenFlags, t.flag k = true) → ∀ k ∈ digitFlags, t.flag k = s.flag k) ∧
      t.flag 98 = errorFlags.any t.flag ∧ t.flag 99 = contingencyFlags.any t.flag) ∧
    (permitted (.rf o) = false → exec (.rf o) s = .refused (.flipFlopOperation o.a))

/-- 97 sets the flip-flop its A-digits number and changes no other (R447; 10_state.md R34, R37): the settable ones are 00-09,
10, 15, 21-29 and 90; any other is refused (D36).
(The refusal is log 43.) -/
def Obligations.SetFlipFlop : Prop :=
  ∀ (o : Fields) (s : State) (ea : Nat), effM s o = .ok ea →
    (permitted (.sf o) = true → ∃ t, exec (.sf o) s = .next t ∧ inSequence s t ∧ t.x = s.x ∧ t.mem = s.mem ∧
      ∀ k, t.flag k = (s.flag k || decide (k = o.a))) ∧
    (permitted (.sf o) = false → exec (.sf o) s = .refused (.flipFlopOperation o.a))
end

