-- ==== Sys2Proof/Laws/Digits.lean ====
section
/-! SUPPORT. Words as strings of characters, digit strings and their numbers, slices and partial writes. -/

namespace Sys2Proof
open Sys2Proof.Machine

/-- The characters of a word spell it. -/
@[simp] theorem Word.ofChars_chars (w : Word) : Word.ofChars w.chars = w := rfl

@[simp] theorem Word.chars_length (w : Word) : w.chars.length = 12 := rfl

/-- Twelve characters are the characters of the word they spell. -/
theorem Word.chars_ofChars (l : List Chr) (h : l.length = 12) : (Word.ofChars l).chars = l := by
  match l, h with
  | [_, _, _, _, _, _, _, _, _, _, _, _], _ => rfl

/-- Two words with the same characters are the same word. -/
theorem Word.ext_chars {u w : Word} (h : u.chars = w.chars) : u = w := by
  rw [← Word.ofChars_chars u, h, Word.ofChars_chars]

@[simp] theorem Five.ofChars_chars (v : Five) : Five.ofChars v.chars = v := rfl

/-- Five characters are the characters of the value they spell. -/
theorem Five.chars_ofChars (l : List Chr) (h : l.length = 5) : (Five.ofChars l).chars = l := by
  match l, h with
  | [_, _, _, _, _], _ => rfl

end Sys2Proof

namespace Sys2Proof.Machine
open Sys2Proof

/-! ### Digit strings -/

@[simp] theorem dig_length (n v : Nat) : (dig n v).length = n := by
  induction n with
  | zero => rfl
  | succ n ih => simp [dig, ih]

@[simp] theorem isNum_digitChr (v : Nat) : isNum (digitChr v) = true := rfl

@[simp] theorem dig_all_isNum (n v : Nat) : (dig n v).all isNum = true := by
  induction n with
  | zero => rfl
  | succ n ih => simp [dig, ih]

@[simp] theorem digitValue_digitChr (v : Nat) : digitValue (digitChr v) = v % 10 := rfl

/-- Reading a digit string onto an accumulator. -/
theorem decimal_dig (n v acc : Nat) : decimal acc (dig n v) = acc * 10 ^ n + v % 10 ^ n := by
  induction n generalizing acc with
  | zero => simp [dig, decimal, Nat.mod_one]
  | succ n ih =>
    have h : v % 10 ^ (n + 1) = v % 10 ^ n + 10 ^ n * (v / 10 ^ n % 10) := by
      rw [pow_succ, Nat.mod_mul]
    rw [dig, decimal, ih, digitValue_digitChr, h, pow_succ]
    ring

/-- `num (dig_n v) = v mod 10^n` (00_scope.md R9). -/
theorem num_dig (n v : Nat) : num (dig n v) = v % 10 ^ n := by
  simp [num, decimal_dig]

/-- `num (dig_n v) = v` for `v < 10^n`. -/
theorem num_dig_of_lt {n v : Nat} (h : v < 10 ^ n) : num (dig n v) = v := by
  rw [num_dig, Nat.mod_eq_of_lt h]

/-- The digits of a number below `10^n`. -/
theorem decimal_lt (l : List Chr) (acc : Nat) : decimal acc l < (acc + 1) * 10 ^ l.length := by
  induction l generalizing acc with
  | nil => simp [decimal]
  | cons c l ih =>
    have hc : digitValue c < 10 := by
      cases c with
      | d n => exact n.isLt
      | minus => decide
      | period => decide
      | ignore => decide
      | other k => simp [digitValue]
    calc decimal (acc * 10 + digitValue c) l < (acc * 10 + digitValue c + 1) * 10 ^ l.length := ih _
      _ ≤ ((acc + 1) * 10) * 10 ^ l.length := Nat.mul_le_mul_right _ (by omega)
      _ = (acc + 1) * 10 ^ (c :: l).length := by rw [List.length_cons, pow_succ]; ring

/-- A string of `n` characters always reads as a number below `10^n`. -/
theorem num_lt (l : List Chr) : num l < 10 ^ l.length := by
  unfold num
  split
  · simpa using decimal_lt l 0
  · exact Nat.mod_lt _ (by positivity)

/-- A numeric character is the digit it shows. -/
theorem digitChr_digitValue {c : Chr} (h : isNum c = true) : digitChr (digitValue c) = c := by
  cases c with
  | d n => exact congrArg Chr.d (Fin.ext (Nat.mod_eq_of_lt n.isLt))
  | minus => simp [isNum] at h
  | period => simp [isNum] at h
  | ignore => simp [isNum] at h
  | other k => simp [isNum] at h

/-- A digit is below ten. -/
theorem digitValue_lt (c : Chr) : digitValue c < 10 := by
  cases c with
  | d n => exact n.isLt
  | minus => decide
  | period => decide
  | ignore => decide
  | other k => simp [digitValue]

/-- Reading onto an accumulator, apart from it. -/
theorem decimal_acc (l : List Chr) (acc : Nat) : decimal acc l = acc * 10 ^ l.length + decimal 0 l := by
  induction l generalizing acc with
  | nil => simp [decimal]
  | cons c l ih =>
    rw [decimal, decimal, ih, ih (0 * 10 + digitValue c), List.length_cons, pow_succ]
    ring

/-- The number of a numeric string. -/
theorem num_of_all {l : List Chr} (h : l.all isNum = true) : num l = decimal 0 l := by simp [num, h]

/-- The number of two strings one after the other. -/
theorem num_append {l k : List Chr} (hl : l.all isNum = true) (hk : k.all isNum = true) :
    num (l ++ k) = num l * 10 ^ k.length + num k := by
  have happ : ∀ (l k : List Chr) (acc : Nat), decimal acc (l ++ k) = decimal (decimal acc l) k := by
    intro l
    induction l with
    | nil => intro k acc; rfl
    | cons c l ih => intro k acc; exact ih k _
  rw [num_of_all hl, num_of_all hk, num_of_all (by simp [hl, hk]), happ, decimal_acc]

/-- `dig_n (num s) = s` for a string of `n` digits. -/
theorem dig_num {l : List Chr} {n : Nat} (h : l.all isNum = true) (hn : l.length = n) : dig n (num l) = l := by
  subst hn
  induction l with
  | nil => rfl
  | cons c l ih =>
    simp only [List.all_cons, Bool.and_eq_true] at h
    have hc : num (c :: l) = digitValue c * 10 ^ l.length + num l := by
      have := num_append (l := [c]) (k := l) (by simp [h.1]) h.2
      simpa [num, decimal, h.1] using this
    have hlt : num l < 10 ^ l.length := num_lt l
    rw [List.length_cons, dig, hc]
    have h1 : (digitValue c * 10 ^ l.length + num l) / 10 ^ l.length = digitValue c := by
      rw [Nat.add_comm, Nat.add_mul_div_right _ _ (by positivity), Nat.div_eq_of_lt hlt, Nat.zero_add]
    rw [h1, digitChr_digitValue h.1]
    congr 1
    have hmod : ∀ n v w, v % 10 ^ n = w % 10 ^ n → dig n v = dig n w := by
      intro n
      induction n with
      | zero => intro v w _; rfl
      | succ n ihn =>
        intro v w hvw
        have e1 : v / 10 ^ n % 10 = w / 10 ^ n % 10 := by
          have : ∀ x : Nat, x / 10 ^ n % 10 = x % 10 ^ (n + 1) / 10 ^ n := by
            intro x
            rw [pow_succ, Nat.mod_mul_right_div_self]
          rw [this, this, hvw]
        have e2 : v % 10 ^ n = w % 10 ^ n := by
          have : ∀ x : Nat, x % 10 ^ n = x % 10 ^ (n + 1) % 10 ^ n := by
            intro x
            rw [Nat.mod_mod_of_dvd _ (pow_dvd_pow 10 (Nat.le_succ n))]
          rw [this, this w, hvw]
        rw [dig, dig, ihn _ _ e2]
        congr 1
        exact congrArg Chr.d (Fin.ext e1)
    rw [hmod l.length _ (num l) (by rw [Nat.add_comm, Nat.add_mul_mod_self_right])]
    exact ih h.2

/-- Digit strings that spell congruent numbers are the same. -/
theorem dig_congr {n v w : Nat} (h : v % 10 ^ n = w % 10 ^ n) : dig n v = dig n w := by
  have := dig_num (dig_all_isNum n v) (dig_length n v)
  rw [num_dig, h, ← num_dig, dig_num (dig_all_isNum n w) (dig_length n w)] at this
  exact this.symm

/-- A digit string in two parts. -/
theorem dig_append (n k v : Nat) : dig (n + k) v = dig n (v / 10 ^ k) ++ dig k v := by
  induction n with
  | zero => simp [dig]
  | succ n ih =>
    have e : n + 1 + k = (n + k) + 1 := by omega
    rw [e, dig, ih, dig, List.cons_append, Nat.div_div_eq_div_mul, ← pow_add, Nat.add_comm n k]

@[simp] theorem zeros_length (n : Nat) : (zeros n).length = n := by simp [zeros]

/-! ### Slices -/

@[simp] theorem slice_length (w : Word) (hi lo : Nat) (h : hi ≤ 12) (hl : 1 ≤ lo) :
    (slice w hi lo).length = hi + 1 - lo := by
  simp [slice]; omega

/-- The eleven positions below the first of `c ‖ s`. -/
theorem slice_wordOf (c : Chr) (s : List Chr) (h : s.length = 11) : slice (wordOf c s) 11 1 = s := by
  match s, h with
  | [_, _, _, _, _, _, _, _, _, _, _], _ => rfl

/-- The positions of `c ‖ s` below the first. -/
theorem slice_wordOf_sub (c : Chr) (s : List Chr) (hi lo : Nat) (h : s.length = 11) (hhi : hi ≤ 11) :
    slice (wordOf c s) hi lo = (s.drop (11 - hi)).take (hi + 1 - lo) := by
  have hc : (wordOf c s).chars = c :: s := Word.chars_ofChars (c :: s) (by simp [h])
  have e : 12 - hi = (11 - hi) + 1 := by omega
  rw [slice, hc, e, List.drop_succ_cons]

/-- Zeros spell zero. -/
theorem zeros_eq_dig (n : Nat) : zeros n = dig n 0 := by
  induction n with
  | zero => rfl
  | succ n ih =>
    have : zeros (n + 1) = .d 0 :: zeros n := rfl
    rw [this, ih, dig, Nat.zero_div]
    rfl

/-! ### Leading zeros -/

/-- A positive number of at most `n` digits, its leading zeros shifted out, has exactly `n`. -/
theorem leadingZeros_bounds {n v : Nat} (h0 : 0 < v) (h : v < 10 ^ n) :
    10 ^ (n - 1) ≤ v * 10 ^ leadingZeros n v ∧ v * 10 ^ leadingZeros n v < 10 ^ n := by
  induction n with
  | zero => simp at h; omega
  | succ n ih =>
    rw [leadingZeros]
    split
    · next hv =>
      obtain ⟨h1, h2⟩ := ih hv
      have hn : 1 ≤ n := by
        cases n with
        | zero => simp at hv; omega
        | succ n => omega
      obtain ⟨k, rfl⟩ : ∃ k, n = k + 1 := ⟨n - 1, by omega⟩
      simp only [Nat.add_sub_cancel] at h1 ⊢
      rw [pow_succ (10 : Nat) (leadingZeros _ _), ← Nat.mul_assoc]
      constructor
      · calc 10 ^ (k + 1) = 10 ^ k * 10 := by rw [pow_succ]
          _ ≤ _ := Nat.mul_le_mul_right 10 h1
      · calc _ < 10 ^ (k + 1) * 10 := Nat.mul_lt_mul_of_pos_right h2 (by norm_num)
          _ = 10 ^ (k + 1 + 1) := by rw [← pow_succ]
    · next hv => simpa using ⟨by omega, h⟩

/-- Only one shift makes a positive number exactly `n` digits long. -/
theorem shift_unique {n v a b : Nat} (ha : 10 ^ (n - 1) ≤ v * 10 ^ a) (ha' : v * 10 ^ a < 10 ^ n)
    (hb : 10 ^ (n - 1) ≤ v * 10 ^ b) (hb' : v * 10 ^ b < 10 ^ n) : a = b := by
  have key : ∀ a b : Nat, 10 ^ (n - 1) ≤ v * 10 ^ a → v * 10 ^ b < 10 ^ n → b ≤ a := by
    intro a b h1 h2
    by_contra hlt
    have hle : 10 ^ a * 10 ≤ 10 ^ b := by
      rw [← pow_succ]
      exact Nat.pow_le_pow_right (by norm_num) (by omega)
    have hn : n = n - 1 + 1 ∨ n = 0 := by omega
    rcases hn with hn | hn
    · have : 10 ^ n ≤ v * 10 ^ b := by
        calc 10 ^ n = 10 ^ (n - 1) * 10 := by rw [← pow_succ]; congr 1
          _ ≤ v * 10 ^ a * 10 := Nat.mul_le_mul_right 10 h1
          _ = v * (10 ^ a * 10) := by ring
          _ ≤ v * 10 ^ b := Nat.mul_le_mul_left v hle
      omega
    · subst hn
      simp at h1 h2
      simp [h2] at h1
  have h1 := key a b ha hb'
  have h2 := key b a hb ha'
  omega

/-- The number of leading zeros is the one shift that leaves none. -/
theorem leadingZeros_eq {n v z : Nat} (h0 : 0 < v) (h1 : 10 ^ (n - 1) ≤ v * 10 ^ z) (h2 : v * 10 ^ z < 10 ^ n) :
    leadingZeros n v = z := by
  have hv : v < 10 ^ n := Nat.lt_of_le_of_lt (Nat.le_mul_of_pos_right v (by positivity)) h2
  obtain ⟨h3, h4⟩ := leadingZeros_bounds h0 hv
  exact shift_unique h3 h4 h1 h2

@[simp] theorem wordOf_c12 (c : Chr) (s : List Chr) : (wordOf c s).c12 = c := rfl

/-- A word is its sign position and the eleven below it. -/
@[simp] theorem wordOf_slice (w : Word) : wordOf w.c12 (slice w 11 1) = w := rfl

/-- The magnitude of a fixed-point word that was written as one. -/
theorem fxmag_fxWord (sg : Chr) (r : Nat) (h : r < 10 ^ 11) : fxmag (fxWord sg r) = r := by
  rw [fxmag, fxWord, slice_wordOf _ _ (dig_length _ _), num_dig_of_lt h]

@[simp] theorem fxWord_c12 (sg : Chr) (r : Nat) : (fxWord sg r).c12 = sg := rfl

@[simp] theorem flWord_c12 (t : Nat) (sg : Chr) (e : Exponent) (f : Nat) : (flWord t sg e f).c12 = sg := rfl

theorem fxmag_lt (w : Word) : fxmag w < 10 ^ 11 := by
  simpa [fxmag] using num_lt (slice w 11 1)

theorem flsig_lt (w : Word) : flsig w < 10 ^ 9 := by
  simpa [flsig] using num_lt (slice w 9 1)

theorem flexp_lt (w : Word) : flexp w < 100 := by
  simpa [flexp] using num_lt (slice w 11 10)

end Sys2Proof.Machine
end

