-- ==== Sys2Proof/Laws/Memory.lean ====
section
/-! SUPPORT. Core storage: a read after a write, and the canonical form every operation keeps. -/

namespace Sys2Proof.Machine
open Sys2Proof

/-- An address below every listed one reads as blank. -/
theorem Memory.read_of_below (m : Memory) (a : Nat) (h : ∀ e ∈ m, a < e.1) : m.read a = blankWord := by
  induction m with
  | nil => rfl
  | cons e m ih =>
    have hl : a < e.1 := h e (by simp)
    simp only [Memory.read, if_neg (Nat.ne_of_lt hl)]
    exact ih fun x hx => h x (by simp [hx])

/-- What a canonical storage says of its first entry and of the rest. -/
theorem Memory.wf_cons (a : Nat) (w : Word) (m : Memory) :
    Memory.wf ((a, w) :: m) = true ↔ w ≠ blankWord ∧ (∀ e ∈ m, a < e.1) ∧ m.wf = true := by
  simp [Memory.wf, and_assoc]

/-- Putting an entry in front of entries at higher addresses. -/
theorem Memory.read_entry (a b : Nat) (w : Word) (m : Memory) (h : ∀ e ∈ m, a < e.1) :
    (Memory.entry a w m).read b = if b = a then w else m.read b := by
  unfold Memory.entry
  split
  · next hw =>
    split
    · next hb => rw [hb, hw, Memory.read_of_below m a h]
    · rfl
  · rfl

/-- The word just written is read back, and every other address reads as before. -/
theorem Memory.read_write (m : Memory) (a b : Nat) (w : Word) (hm : m.wf = true) :
    (m.write a w).read b = if b = a then w else m.read b := by
  induction m with
  | nil => exact Memory.read_entry a b w [] (by simp)
  | cons e m ih =>
    obtain ⟨c, v⟩ := e
    obtain ⟨hv, hlt, hwf⟩ := (Memory.wf_cons c v m).1 hm
    simp only [Memory.write]
    split
    · next hac =>
      exact Memory.read_entry a b w _ fun e he => by
        rcases List.mem_cons.1 he with rfl | he
        · exact hac
        · exact Nat.lt_trans hac (hlt e he)
    · split
      · next hac =>
        subst hac
        rw [Memory.read_entry a b w m hlt]
        by_cases hb : b = a <;> simp [Memory.read, hb]
      · next h1 h2 =>
        simp only [Memory.read]
        by_cases hbc : b = c
        · simp [hbc, Ne.symm h2]
        · simp [hbc, ih hwf]

/-- The word just written is read back, whatever the form of storage. -/
theorem Memory.read_write_same (m : Memory) (a : Nat) (w : Word) (hm : m.wf = true) :
    (m.write a w).read a = w := by simp [Memory.read_write m a a w hm]

/-- A write leaves every other address alone, whatever the form of storage. -/
theorem Memory.read_write_other (m : Memory) (a b : Nat) (w : Word) (h : b ≠ a) :
    (m.write a w).read b = m.read b := by
  have entry : ∀ m : Memory, (Memory.entry a w m).read b = m.read b := by
    intro m
    unfold Memory.entry
    split
    · rfl
    · simp [Memory.read, h]
  induction m with
  | nil => exact entry []
  | cons e m ih =>
    obtain ⟨c, v⟩ := e
    simp only [Memory.write]
    split
    · exact entry _
    · split
      · next hac =>
        subst hac
        rw [entry m]
        simp [Memory.read, h]
      · simp only [Memory.read, ih]

/-- The addresses after a write are the old ones and perhaps the new one. -/
theorem Memory.mem_write {m : Memory} {a : Nat} {w : Word} {e : Nat × Word} (h : e ∈ m.write a w) :
    e = (a, w) ∨ e ∈ m := by
  have entry : ∀ {m : Memory}, e ∈ Memory.entry a w m → e = (a, w) ∨ e ∈ m := by
    intro m he
    unfold Memory.entry at he
    split at he
    · exact .inr he
    · exact List.mem_cons.1 he
  induction m with
  | nil => exact entry h
  | cons f m ih =>
    obtain ⟨c, v⟩ := f
    simp only [Memory.write] at h
    split at h
    · exact entry h
    · split at h
      · rcases entry h with rfl | he
        · exact .inl rfl
        · exact .inr (List.mem_cons_of_mem _ he)
      · rcases List.mem_cons.1 h with rfl | he
        · exact .inr (by simp)
        · rcases ih he with rfl | he
          · exact .inl rfl
          · exact .inr (List.mem_cons_of_mem _ he)

/-- A front entry keeps the form. -/
theorem Memory.wf_entry (a : Nat) (w : Word) (m : Memory) (hm : m.wf = true) (h : ∀ e ∈ m, a < e.1) :
    (Memory.entry a w m).wf = true := by
  unfold Memory.entry
  split
  · exact hm
  · next hw => exact (Memory.wf_cons a w m).2 ⟨hw, h, hm⟩

/-- Every write keeps the canonical form. -/
theorem Memory.wf_write (m : Memory) (a : Nat) (w : Word) (hm : m.wf = true) : (m.write a w).wf = true := by
  induction m with
  | nil => exact Memory.wf_entry a w [] hm (by simp)
  | cons e m ih =>
    obtain ⟨c, v⟩ := e
    obtain ⟨hv, hlt, hwf⟩ := (Memory.wf_cons c v m).1 hm
    simp only [Memory.write]
    split
    · next hac =>
      refine Memory.wf_entry a w _ hm fun e he => ?_
      rcases List.mem_cons.1 he with rfl | he
      · exact hac
      · exact Nat.lt_trans hac (hlt e he)
    · split
      · next hac =>
        subst hac
        exact Memory.wf_entry a w m hwf hlt
      · next h1 h2 =>
        refine (Memory.wf_cons c v _).2 ⟨hv, fun e he => ?_, ih hwf⟩
        rcases Memory.mem_write he with rfl | he
        · show c < a
          omega
        · exact hlt e he

/-- Two canonical storages that read alike everywhere are one and the same list. -/
theorem Memory.ext_read {m k : Memory} (hm : m.wf = true) (hk : k.wf = true) (h : ∀ a, m.read a = k.read a) :
    m = k := by
  induction m generalizing k with
  | nil =>
    cases k with
    | nil => rfl
    | cons f k =>
      obtain ⟨c, v⟩ := f
      obtain ⟨hv, -, -⟩ := (Memory.wf_cons c v k).1 hk
      have := h c
      simp only [Memory.read, if_true] at this
      exact absurd this.symm hv
  | cons e m ih =>
    obtain ⟨a, w⟩ := e
    obtain ⟨hw, hlt, hwf⟩ := (Memory.wf_cons a w m).1 hm
    cases k with
    | nil =>
      have := h a
      simp only [Memory.read, if_true] at this
      exact absurd this hw
    | cons f k =>
      obtain ⟨c, v⟩ := f
      obtain ⟨hv, hlt', hwf'⟩ := (Memory.wf_cons c v k).1 hk
      have ha := h a
      have hc := h c
      simp only [Memory.read, if_true] at ha hc
      have hac : a = c := by
        by_contra hne
        rcases Nat.lt_or_ge a c with hl | hl
        · rw [if_neg hne, Memory.read_of_below k a fun e he => Nat.lt_trans hl (hlt' e he)] at ha
          exact hw ha
        · have hl : c < a := by omega
          rw [if_neg (Ne.symm hne), Memory.read_of_below m c fun e he => Nat.lt_trans hl (hlt e he)] at hc
          exact hv hc.symm
      subst hac
      simp only [if_true] at ha
      subst ha
      congr 1
      refine ih hwf hwf' fun b => ?_
      have hb := h b
      simp only [Memory.read] at hb
      by_cases hba : b = a
      · subst hba
        rw [Memory.read_of_below m b hlt, Memory.read_of_below k b hlt']
      · simpa [hba] using hb

/-- Storage with nothing listed has the form. -/
@[simp] theorem Memory.wf_nil : Memory.wf [] = true := rfl

/-- Storage after reset has the form. -/
theorem State.reset_mem_wf : State.reset.mem.wf = true := rfl

end Sys2Proof.Machine
end

