-- ==== Sys2Proof/Laws/State.lean ====
section
/-! SUPPORT. One lemma per field per update of State, so that no proof unfolds a record update. -/

namespace Sys2Proof.Machine
open Sys2Proof

/-! ### Updates that are one record update -/

@[simp] theorem State.setReg_x (s : State) (r : Nat) (w : Word) : (s.setReg r w).x = putReg s.x r w := rfl
@[simp] theorem State.setReg_pc (s : State) (r : Nat) (w : Word) : (s.setReg r w).pc = s.pc := rfl
@[simp] theorem State.setReg_c2 (s : State) (r : Nat) (w : Word) : (s.setReg r w).c2 = s.c2 := rfl
@[simp] theorem State.setReg_ff (s : State) (r : Nat) (w : Word) : (s.setReg r w).ff = s.ff := rfl
@[simp] theorem State.setReg_vd5 (s : State) (r : Nat) (w : Word) : (s.setReg r w).vd5 = s.vd5 := rfl
@[simp] theorem State.setReg_vd12 (s : State) (r : Nat) (w : Word) : (s.setReg r w).vd12 = s.vd12 := rfl
@[simp] theorem State.setReg_interlock (s : State) (r : Nat) (w : Word) : (s.setReg r w).interlock = s.interlock := rfl
@[simp] theorem State.setReg_connect (s : State) (r : Nat) (w : Word) : (s.setReg r w).connect = s.connect := rfl
@[simp] theorem State.setReg_stopped (s : State) (r : Nat) (w : Word) : (s.setReg r w).stopped = s.stopped := rfl
@[simp] theorem State.setReg_mem (s : State) (r : Nat) (w : Word) : (s.setReg r w).mem = s.mem := rfl
@[simp] theorem State.setReg_trap (s : State) (r : Nat) (w : Word) : (s.setReg r w).trap = s.trap := rfl
@[simp] theorem State.setReg_inst (s : State) (r : Nat) (w : Word) : (s.setReg r w).inst = s.inst := rfl
@[simp] theorem State.setReg_schedule (s : State) (r : Nat) (w : Word) : (s.setReg r w).schedule = s.schedule := rfl
@[simp] theorem State.setReg_tick (s : State) (r : Nat) (w : Word) : (s.setReg r w).tick = s.tick := rfl
@[simp] theorem State.setReg_written (s : State) (r : Nat) (w : Word) : (s.setReg r w).written = s.written := rfl

@[simp] theorem State.setPair_x (s : State) (r : Nat) (h l : Word) : (s.setPair r h l).x = putReg (putReg s.x r h) (r + 1) l := rfl
@[simp] theorem State.setPair_pc (s : State) (r : Nat) (h l : Word) : (s.setPair r h l).pc = s.pc := rfl
@[simp] theorem State.setPair_c2 (s : State) (r : Nat) (h l : Word) : (s.setPair r h l).c2 = s.c2 := rfl
@[simp] theorem State.setPair_ff (s : State) (r : Nat) (h l : Word) : (s.setPair r h l).ff = s.ff := rfl
@[simp] theorem State.setPair_vd5 (s : State) (r : Nat) (h l : Word) : (s.setPair r h l).vd5 = s.vd5 := rfl
@[simp] theorem State.setPair_vd12 (s : State) (r : Nat) (h l : Word) : (s.setPair r h l).vd12 = s.vd12 := rfl
@[simp] theorem State.setPair_interlock (s : State) (r : Nat) (h l : Word) : (s.setPair r h l).interlock = s.interlock := rfl
@[simp] theorem State.setPair_connect (s : State) (r : Nat) (h l : Word) : (s.setPair r h l).connect = s.connect := rfl
@[simp] theorem State.setPair_stopped (s : State) (r : Nat) (h l : Word) : (s.setPair r h l).stopped = s.stopped := rfl
@[simp] theorem State.setPair_mem (s : State) (r : Nat) (h l : Word) : (s.setPair r h l).mem = s.mem := rfl
@[simp] theorem State.setPair_trap (s : State) (r : Nat) (h l : Word) : (s.setPair r h l).trap = s.trap := rfl
@[simp] theorem State.setPair_inst (s : State) (r : Nat) (h l : Word) : (s.setPair r h l).inst = s.inst := rfl
@[simp] theorem State.setPair_schedule (s : State) (r : Nat) (h l : Word) : (s.setPair r h l).schedule = s.schedule := rfl
@[simp] theorem State.setPair_tick (s : State) (r : Nat) (h l : Word) : (s.setPair r h l).tick = s.tick := rfl
@[simp] theorem State.setPair_written (s : State) (r : Nat) (h l : Word) : (s.setPair r h l).written = s.written := rfl

@[simp] theorem State.putFlag_x (s : State) (k : Nat) (b : Bool) : (s.putFlag k b).x = s.x := rfl
@[simp] theorem State.putFlag_pc (s : State) (k : Nat) (b : Bool) : (s.putFlag k b).pc = s.pc := rfl
@[simp] theorem State.putFlag_c2 (s : State) (k : Nat) (b : Bool) : (s.putFlag k b).c2 = s.c2 := rfl
@[simp] theorem State.putFlag_ff (s : State) (k : Nat) (b : Bool) : (s.putFlag k b).ff = s.ff.setIfInBounds k b := rfl
@[simp] theorem State.putFlag_vd5 (s : State) (k : Nat) (b : Bool) : (s.putFlag k b).vd5 = s.vd5 := rfl
@[simp] theorem State.putFlag_vd12 (s : State) (k : Nat) (b : Bool) : (s.putFlag k b).vd12 = s.vd12 := rfl
@[simp] theorem State.putFlag_interlock (s : State) (k : Nat) (b : Bool) : (s.putFlag k b).interlock = s.interlock := rfl
@[simp] theorem State.putFlag_connect (s : State) (k : Nat) (b : Bool) : (s.putFlag k b).connect = s.connect := rfl
@[simp] theorem State.putFlag_stopped (s : State) (k : Nat) (b : Bool) : (s.putFlag k b).stopped = s.stopped := rfl
@[simp] theorem State.putFlag_mem (s : State) (k : Nat) (b : Bool) : (s.putFlag k b).mem = s.mem := rfl
@[simp] theorem State.putFlag_trap (s : State) (k : Nat) (b : Bool) : (s.putFlag k b).trap = s.trap := rfl
@[simp] theorem State.putFlag_inst (s : State) (k : Nat) (b : Bool) : (s.putFlag k b).inst = s.inst := rfl
@[simp] theorem State.putFlag_schedule (s : State) (k : Nat) (b : Bool) : (s.putFlag k b).schedule = s.schedule := rfl
@[simp] theorem State.putFlag_tick (s : State) (k : Nat) (b : Bool) : (s.putFlag k b).tick = s.tick := rfl
@[simp] theorem State.putFlag_written (s : State) (k : Nat) (b : Bool) : (s.putFlag k b).written = s.written := rfl

@[simp] theorem State.putDisplay5_x (s : State) (v : Five) : (s.putDisplay5 v).x = s.x := rfl
@[simp] theorem State.putDisplay5_pc (s : State) (v : Five) : (s.putDisplay5 v).pc = s.pc := rfl
@[simp] theorem State.putDisplay5_c2 (s : State) (v : Five) : (s.putDisplay5 v).c2 = s.c2 := rfl
@[simp] theorem State.putDisplay5_ff (s : State) (v : Five) : (s.putDisplay5 v).ff = s.ff := rfl
@[simp] theorem State.putDisplay5_vd5 (s : State) (v : Five) : (s.putDisplay5 v).vd5 = v := rfl
@[simp] theorem State.putDisplay5_vd12 (s : State) (v : Five) : (s.putDisplay5 v).vd12 = Config.display12After v s.vd12 := rfl
@[simp] theorem State.putDisplay5_interlock (s : State) (v : Five) : (s.putDisplay5 v).interlock = s.interlock := rfl
@[simp] theorem State.putDisplay5_connect (s : State) (v : Five) : (s.putDisplay5 v).connect = s.connect := rfl
@[simp] theorem State.putDisplay5_stopped (s : State) (v : Five) : (s.putDisplay5 v).stopped = s.stopped := rfl
@[simp] theorem State.putDisplay5_mem (s : State) (v : Five) : (s.putDisplay5 v).mem = s.mem := rfl
@[simp] theorem State.putDisplay5_trap (s : State) (v : Five) : (s.putDisplay5 v).trap = s.trap := rfl
@[simp] theorem State.putDisplay5_inst (s : State) (v : Five) : (s.putDisplay5 v).inst = s.inst := rfl
@[simp] theorem State.putDisplay5_schedule (s : State) (v : Five) : (s.putDisplay5 v).schedule = s.schedule := rfl
@[simp] theorem State.putDisplay5_tick (s : State) (v : Five) : (s.putDisplay5 v).tick = s.tick := rfl
@[simp] theorem State.putDisplay5_written (s : State) (v : Five) : (s.putDisplay5 v).written = s.written := rfl

@[simp] theorem State.putDisplay12_x (s : State) (w : Word) : (s.putDisplay12 w).x = s.x := rfl
@[simp] theorem State.putDisplay12_pc (s : State) (w : Word) : (s.putDisplay12 w).pc = s.pc := rfl
@[simp] theorem State.putDisplay12_c2 (s : State) (w : Word) : (s.putDisplay12 w).c2 = s.c2 := rfl
@[simp] theorem State.putDisplay12_ff (s : State) (w : Word) : (s.putDisplay12 w).ff = s.ff := rfl
@[simp] theorem State.putDisplay12_vd5 (s : State) (w : Word) : (s.putDisplay12 w).vd5 = Config.display5After w s.vd5 := rfl
@[simp] theorem State.putDisplay12_vd12 (s : State) (w : Word) : (s.putDisplay12 w).vd12 = w := rfl
@[simp] theorem State.putDisplay12_interlock (s : State) (w : Word) : (s.putDisplay12 w).interlock = s.interlock := rfl
@[simp] theorem State.putDisplay12_connect (s : State) (w : Word) : (s.putDisplay12 w).connect = s.connect := rfl
@[simp] theorem State.putDisplay12_stopped (s : State) (w : Word) : (s.putDisplay12 w).stopped = s.stopped := rfl
@[simp] theorem State.putDisplay12_mem (s : State) (w : Word) : (s.putDisplay12 w).mem = s.mem := rfl
@[simp] theorem State.putDisplay12_trap (s : State) (w : Word) : (s.putDisplay12 w).trap = s.trap := rfl
@[simp] theorem State.putDisplay12_inst (s : State) (w : Word) : (s.putDisplay12 w).inst = s.inst := rfl
@[simp] theorem State.putDisplay12_schedule (s : State) (w : Word) : (s.putDisplay12 w).schedule = s.schedule := rfl
@[simp] theorem State.putDisplay12_tick (s : State) (w : Word) : (s.putDisplay12 w).tick = s.tick := rfl
@[simp] theorem State.putDisplay12_written (s : State) (w : Word) : (s.putDisplay12 w).written = s.written := rfl

@[simp] theorem State.next_x (s : State) : s.next.x = s.x := rfl
@[simp] theorem State.next_pc (s : State) : s.next.pc = succAddr s.inst s.pc := rfl
@[simp] theorem State.next_c2 (s : State) : s.next.c2 = s.c2 := rfl
@[simp] theorem State.next_ff (s : State) : s.next.ff = s.ff := rfl
@[simp] theorem State.next_vd5 (s : State) : s.next.vd5 = s.vd5 := rfl
@[simp] theorem State.next_vd12 (s : State) : s.next.vd12 = s.vd12 := rfl
@[simp] theorem State.next_interlock (s : State) : s.next.interlock = s.interlock := rfl
@[simp] theorem State.next_connect (s : State) : s.next.connect = s.connect := rfl
@[simp] theorem State.next_stopped (s : State) : s.next.stopped = s.stopped := rfl
@[simp] theorem State.next_mem (s : State) : s.next.mem = s.mem := rfl
@[simp] theorem State.next_trap (s : State) : s.next.trap = s.trap := rfl
@[simp] theorem State.next_inst (s : State) : s.next.inst = s.inst := rfl
@[simp] theorem State.next_schedule (s : State) : s.next.schedule = s.schedule := rfl
@[simp] theorem State.next_tick (s : State) : s.next.tick = s.tick := rfl
@[simp] theorem State.next_written (s : State) : s.next.written = s.written := rfl

@[simp] theorem State.turn_x (s : State) : s.turn.x = s.x := rfl
@[simp] theorem State.turn_pc (s : State) : s.turn.pc = s.pc := rfl
@[simp] theorem State.turn_c2 (s : State) : s.turn.c2 = s.c2 := rfl
@[simp] theorem State.turn_ff (s : State) : s.turn.ff = s.ff := rfl
@[simp] theorem State.turn_vd5 (s : State) : s.turn.vd5 = s.vd5 := rfl
@[simp] theorem State.turn_vd12 (s : State) : s.turn.vd12 = s.vd12 := rfl
@[simp] theorem State.turn_interlock (s : State) : s.turn.interlock = s.interlock := rfl
@[simp] theorem State.turn_connect (s : State) : s.turn.connect = s.connect := rfl
@[simp] theorem State.turn_stopped (s : State) : s.turn.stopped = s.stopped := rfl
@[simp] theorem State.turn_mem (s : State) : s.turn.mem = s.mem := rfl
@[simp] theorem State.turn_trap (s : State) : s.turn.trap = s.trap := rfl
@[simp] theorem State.turn_inst (s : State) : s.turn.inst = s.inst := rfl
@[simp] theorem State.turn_schedule (s : State) : s.turn.schedule = s.schedule := rfl
@[simp] theorem State.turn_tick (s : State) : s.turn.tick = s.tick + 1 := rfl
@[simp] theorem State.turn_written (s : State) : s.turn.written = s.written := rfl

/-! ### Updates that branch or recurse -/

@[simp] theorem State.branch_x (s : State) (b : Bool) (a : Nat) : (s.branch b a).x = s.x := by
  cases b <;> rfl
@[simp] theorem State.branch_ff (s : State) (b : Bool) (a : Nat) : (s.branch b a).ff = s.ff := by
  cases b <;> rfl
@[simp] theorem State.branch_vd5 (s : State) (b : Bool) (a : Nat) : (s.branch b a).vd5 = s.vd5 := by
  cases b <;> rfl
@[simp] theorem State.branch_vd12 (s : State) (b : Bool) (a : Nat) : (s.branch b a).vd12 = s.vd12 := by
  cases b <;> rfl
@[simp] theorem State.branch_interlock (s : State) (b : Bool) (a : Nat) : (s.branch b a).interlock = s.interlock := by
  cases b <;> rfl
@[simp] theorem State.branch_connect (s : State) (b : Bool) (a : Nat) : (s.branch b a).connect = s.connect := by
  cases b <;> rfl
@[simp] theorem State.branch_stopped (s : State) (b : Bool) (a : Nat) : (s.branch b a).stopped = s.stopped := by
  cases b <;> rfl
@[simp] theorem State.branch_mem (s : State) (b : Bool) (a : Nat) : (s.branch b a).mem = s.mem := by
  cases b <;> rfl
@[simp] theorem State.branch_trap (s : State) (b : Bool) (a : Nat) : (s.branch b a).trap = s.trap := by
  cases b <;> rfl
@[simp] theorem State.branch_inst (s : State) (b : Bool) (a : Nat) : (s.branch b a).inst = s.inst := by
  cases b <;> rfl
@[simp] theorem State.branch_schedule (s : State) (b : Bool) (a : Nat) : (s.branch b a).schedule = s.schedule := by
  cases b <;> rfl
@[simp] theorem State.branch_tick (s : State) (b : Bool) (a : Nat) : (s.branch b a).tick = s.tick := by
  cases b <;> rfl
@[simp] theorem State.branch_written (s : State) (b : Bool) (a : Nat) : (s.branch b a).written = s.written := by
  cases b <;> rfl
@[simp] theorem State.branch_pc (s : State) (b : Bool) (a : Nat) :
    (s.branch b a).pc = if b then a else succAddr s.inst s.pc := by
  cases b <;> rfl
@[simp] theorem State.branch_c2 (s : State) (b : Bool) (a : Nat) :
    (s.branch b a).c2 = if b then succAddr s.inst s.pc else a := by
  cases b <;> rfl

@[simp] theorem State.putFlags_x (s : State) (ks : List Nat) : (s.putFlags ks).x = s.x := by
  induction ks generalizing s with
  | nil => rfl
  | cons k l ih => exact ih _
@[simp] theorem State.putFlags_pc (s : State) (ks : List Nat) : (s.putFlags ks).pc = s.pc := by
  induction ks generalizing s with
  | nil => rfl
  | cons k l ih => exact ih _
@[simp] theorem State.putFlags_c2 (s : State) (ks : List Nat) : (s.putFlags ks).c2 = s.c2 := by
  induction ks generalizing s with
  | nil => rfl
  | cons k l ih => exact ih _
@[simp] theorem State.putFlags_vd5 (s : State) (ks : List Nat) : (s.putFlags ks).vd5 = s.vd5 := by
  induction ks generalizing s with
  | nil => rfl
  | cons k l ih => exact ih _
@[simp] theorem State.putFlags_vd12 (s : State) (ks : List Nat) : (s.putFlags ks).vd12 = s.vd12 := by
  induction ks generalizing s with
  | nil => rfl
  | cons k l ih => exact ih _
@[simp] theorem State.putFlags_interlock (s : State) (ks : List Nat) : (s.putFlags ks).interlock = s.interlock := by
  induction ks generalizing s with
  | nil => rfl
  | cons k l ih => exact ih _
@[simp] theorem State.putFlags_connect (s : State) (ks : List Nat) : (s.putFlags ks).connect = s.connect := by
  induction ks generalizing s with
  | nil => rfl
  | cons k l ih => exact ih _
@[simp] theorem State.putFlags_stopped (s : State) (ks : List Nat) : (s.putFlags ks).stopped = s.stopped := by
  induction ks generalizing s with
  | nil => rfl
  | cons k l ih => exact ih _
@[simp] theorem State.putFlags_mem (s : State) (ks : List Nat) : (s.putFlags ks).mem = s.mem := by
  induction ks generalizing s with
  | nil => rfl
  | cons k l ih => exact ih _
@[simp] theorem State.putFlags_trap (s : State) (ks : List Nat) : (s.putFlags ks).trap = s.trap := by
  induction ks generalizing s with
  | nil => rfl
  | cons k l ih => exact ih _
@[simp] theorem State.putFlags_inst (s : State) (ks : List Nat) : (s.putFlags ks).inst = s.inst := by
  induction ks generalizing s with
  | nil => rfl
  | cons k l ih => exact ih _
@[simp] theorem State.putFlags_schedule (s : State) (ks : List Nat) : (s.putFlags ks).schedule = s.schedule := by
  induction ks generalizing s with
  | nil => rfl
  | cons k l ih => exact ih _
@[simp] theorem State.putFlags_tick (s : State) (ks : List Nat) : (s.putFlags ks).tick = s.tick := by
  induction ks generalizing s with
  | nil => rfl
  | cons k l ih => exact ih _
@[simp] theorem State.putFlags_written (s : State) (ks : List Nat) : (s.putFlags ks).written = s.written := by
  induction ks generalizing s with
  | nil => rfl
  | cons k l ih => exact ih _

@[simp] theorem State.clearFlags_x (s : State) (ks : List Nat) : (s.clearFlags ks).x = s.x := by
  induction ks generalizing s with
  | nil => rfl
  | cons k l ih => exact ih _
@[simp] theorem State.clearFlags_pc (s : State) (ks : List Nat) : (s.clearFlags ks).pc = s.pc := by
  induction ks generalizing s with
  | nil => rfl
  | cons k l ih => exact ih _
@[simp] theorem State.clearFlags_c2 (s : State) (ks : List Nat) : (s.clearFlags ks).c2 = s.c2 := by
  induction ks generalizing s with
  | nil => rfl
  | cons k l ih => exact ih _
@[simp] theorem State.clearFlags_vd5 (s : State) (ks : List Nat) : (s.clearFlags ks).vd5 = s.vd5 := by
  induction ks generalizing s with
  | nil => rfl
  | cons k l ih => exact ih _
@[simp] theorem State.clearFlags_vd12 (s : State) (ks : List Nat) : (s.clearFlags ks).vd12 = s.vd12 := by
  induction ks generalizing s with
  | nil => rfl
  | cons k l ih => exact ih _
@[simp] theorem State.clearFlags_interlock (s : State) (ks : List Nat) : (s.clearFlags ks).interlock = s.interlock := by
  induction ks generalizing s with
  | nil => rfl
  | cons k l ih => exact ih _
@[simp] theorem State.clearFlags_connect (s : State) (ks : List Nat) : (s.clearFlags ks).connect = s.connect := by
  induction ks generalizing s with
  | nil => rfl
  | cons k l ih => exact ih _
@[simp] theorem State.clearFlags_stopped (s : State) (ks : List Nat) : (s.clearFlags ks).stopped = s.stopped := by
  induction ks generalizing s with
  | nil => rfl
  | cons k l ih => exact ih _
@[simp] theorem State.clearFlags_mem (s : State) (ks : List Nat) : (s.clearFlags ks).mem = s.mem := by
  induction ks generalizing s with
  | nil => rfl
  | cons k l ih => exact ih _
@[simp] theorem State.clearFlags_trap (s : State) (ks : List Nat) : (s.clearFlags ks).trap = s.trap := by
  induction ks generalizing s with
  | nil => rfl
  | cons k l ih => exact ih _
@[simp] theorem State.clearFlags_inst (s : State) (ks : List Nat) : (s.clearFlags ks).inst = s.inst := by
  induction ks generalizing s with
  | nil => rfl
  | cons k l ih => exact ih _
@[simp] theorem State.clearFlags_schedule (s : State) (ks : List Nat) : (s.clearFlags ks).schedule = s.schedule := by
  induction ks generalizing s with
  | nil => rfl
  | cons k l ih => exact ih _
@[simp] theorem State.clearFlags_tick (s : State) (ks : List Nat) : (s.clearFlags ks).tick = s.tick := by
  induction ks generalizing s with
  | nil => rfl
  | cons k l ih => exact ih _
@[simp] theorem State.clearFlags_written (s : State) (ks : List Nat) : (s.clearFlags ks).written = s.written := by
  induction ks generalizing s with
  | nil => rfl
  | cons k l ih => exact ih _

@[simp] theorem State.raise_x (s : State) (k : TrapKind) (ks : List Nat) : (s.raise k ks).x = s.x := by
  cases ks <;> simp [State.raise]
@[simp] theorem State.raise_pc (s : State) (k : TrapKind) (ks : List Nat) : (s.raise k ks).pc = s.pc := by
  cases ks <;> simp [State.raise]
@[simp] theorem State.raise_c2 (s : State) (k : TrapKind) (ks : List Nat) : (s.raise k ks).c2 = s.c2 := by
  cases ks <;> simp [State.raise]
@[simp] theorem State.raise_vd5 (s : State) (k : TrapKind) (ks : List Nat) : (s.raise k ks).vd5 = s.vd5 := by
  cases ks <;> simp [State.raise]
@[simp] theorem State.raise_vd12 (s : State) (k : TrapKind) (ks : List Nat) : (s.raise k ks).vd12 = s.vd12 := by
  cases ks <;> simp [State.raise]
@[simp] theorem State.raise_interlock (s : State) (k : TrapKind) (ks : List Nat) : (s.raise k ks).interlock = s.interlock := by
  cases ks <;> simp [State.raise]
@[simp] theorem State.raise_connect (s : State) (k : TrapKind) (ks : List Nat) : (s.raise k ks).connect = s.connect := by
  cases ks <;> simp [State.raise]
@[simp] theorem State.raise_stopped (s : State) (k : TrapKind) (ks : List Nat) : (s.raise k ks).stopped = s.stopped := by
  cases ks <;> simp [State.raise]
@[simp] theorem State.raise_mem (s : State) (k : TrapKind) (ks : List Nat) : (s.raise k ks).mem = s.mem := by
  cases ks <;> simp [State.raise]
@[simp] theorem State.raise_inst (s : State) (k : TrapKind) (ks : List Nat) : (s.raise k ks).inst = s.inst := by
  cases ks <;> simp [State.raise]
@[simp] theorem State.raise_schedule (s : State) (k : TrapKind) (ks : List Nat) : (s.raise k ks).schedule = s.schedule := by
  cases ks <;> simp [State.raise]
@[simp] theorem State.raise_tick (s : State) (k : TrapKind) (ks : List Nat) : (s.raise k ks).tick = s.tick := by
  cases ks <;> simp [State.raise]
@[simp] theorem State.raise_written (s : State) (k : TrapKind) (ks : List Nat) : (s.raise k ks).written = s.written := by
  cases ks <;> simp [State.raise]

@[simp] theorem State.raiseContingency_x (s : State) (ks : List Nat) : (s.raiseContingency ks).x = s.x := by
  simp [State.raiseContingency]
@[simp] theorem State.raiseContingency_pc (s : State) (ks : List Nat) : (s.raiseContingency ks).pc = s.pc := by
  simp [State.raiseContingency]
@[simp] theorem State.raiseContingency_c2 (s : State) (ks : List Nat) : (s.raiseContingency ks).c2 = s.c2 := by
  simp [State.raiseContingency]
@[simp] theorem State.raiseContingency_vd5 (s : State) (ks : List Nat) : (s.raiseContingency ks).vd5 = s.vd5 := by
  simp [State.raiseContingency]
@[simp] theorem State.raiseContingency_vd12 (s : State) (ks : List Nat) : (s.raiseContingency ks).vd12 = s.vd12 := by
  simp [State.raiseContingency]
@[simp] theorem State.raiseContingency_interlock (s : State) (ks : List Nat) : (s.raiseContingency ks).interlock = s.interlock := by
  simp [State.raiseContingency]
@[simp] theorem State.raiseContingency_connect (s : State) (ks : List Nat) : (s.raiseContingency ks).connect = s.connect := by
  simp [State.raiseContingency]
@[simp] theorem State.raiseContingency_stopped (s : State) (ks : List Nat) : (s.raiseContingency ks).stopped = s.stopped := by
  simp [State.raiseContingency]
@[simp] theorem State.raiseContingency_mem (s : State) (ks : List Nat) : (s.raiseContingency ks).mem = s.mem := by
  simp [State.raiseContingency]
@[simp] theorem State.raiseContingency_inst (s : State) (ks : List Nat) : (s.raiseContingency ks).inst = s.inst := by
  simp [State.raiseContingency]
@[simp] theorem State.raiseContingency_schedule (s : State) (ks : List Nat) : (s.raiseContingency ks).schedule = s.schedule := by
  simp [State.raiseContingency]
@[simp] theorem State.raiseContingency_tick (s : State) (ks : List Nat) : (s.raiseContingency ks).tick = s.tick := by
  simp [State.raiseContingency]
@[simp] theorem State.raiseContingency_written (s : State) (ks : List Nat) : (s.raiseContingency ks).written = s.written := by
  simp [State.raiseContingency]

@[simp] theorem State.raiseContingency_nil (s : State) : s.raiseContingency [] = s := rfl

@[simp] theorem State.refreshMasters_x (s : State) : s.refreshMasters.x = s.x := rfl
@[simp] theorem State.refreshMasters_pc (s : State) : s.refreshMasters.pc = s.pc := rfl
@[simp] theorem State.refreshMasters_c2 (s : State) : s.refreshMasters.c2 = s.c2 := rfl
@[simp] theorem State.refreshMasters_vd5 (s : State) : s.refreshMasters.vd5 = s.vd5 := rfl
@[simp] theorem State.refreshMasters_vd12 (s : State) : s.refreshMasters.vd12 = s.vd12 := rfl
@[simp] theorem State.refreshMasters_interlock (s : State) : s.refreshMasters.interlock = s.interlock := rfl
@[simp] theorem State.refreshMasters_connect (s : State) : s.refreshMasters.connect = s.connect := rfl
@[simp] theorem State.refreshMasters_stopped (s : State) : s.refreshMasters.stopped = s.stopped := rfl
@[simp] theorem State.refreshMasters_mem (s : State) : s.refreshMasters.mem = s.mem := rfl
@[simp] theorem State.refreshMasters_trap (s : State) : s.refreshMasters.trap = s.trap := rfl
@[simp] theorem State.refreshMasters_inst (s : State) : s.refreshMasters.inst = s.inst := rfl
@[simp] theorem State.refreshMasters_schedule (s : State) : s.refreshMasters.schedule = s.schedule := rfl
@[simp] theorem State.refreshMasters_tick (s : State) : s.refreshMasters.tick = s.tick := rfl
@[simp] theorem State.refreshMasters_written (s : State) : s.refreshMasters.written = s.written := rfl

@[simp] theorem State.followDigitFlags_x (s : State) : s.followDigitFlags.x = s.x := by
  unfold State.followDigitFlags; split <;> simp
@[simp] theorem State.followDigitFlags_pc (s : State) : s.followDigitFlags.pc = s.pc := by
  unfold State.followDigitFlags; split <;> simp
@[simp] theorem State.followDigitFlags_c2 (s : State) : s.followDigitFlags.c2 = s.c2 := by
  unfold State.followDigitFlags; split <;> simp
@[simp] theorem State.followDigitFlags_vd5 (s : State) : s.followDigitFlags.vd5 = s.vd5 := by
  unfold State.followDigitFlags; split <;> simp
@[simp] theorem State.followDigitFlags_vd12 (s : State) : s.followDigitFlags.vd12 = s.vd12 := by
  unfold State.followDigitFlags; split <;> simp
@[simp] theorem State.followDigitFlags_interlock (s : State) : s.followDigitFlags.interlock = s.interlock := by
  unfold State.followDigitFlags; split <;> simp
@[simp] theorem State.followDigitFlags_connect (s : State) : s.followDigitFlags.connect = s.connect := by
  unfold State.followDigitFlags; split <;> simp
@[simp] theorem State.followDigitFlags_stopped (s : State) : s.followDigitFlags.stopped = s.stopped := by
  unfold State.followDigitFlags; split <;> simp
@[simp] theorem State.followDigitFlags_mem (s : State) : s.followDigitFlags.mem = s.mem := by
  unfold State.followDigitFlags; split <;> simp
@[simp] theorem State.followDigitFlags_trap (s : State) : s.followDigitFlags.trap = s.trap := by
  unfold State.followDigitFlags; split <;> simp
@[simp] theorem State.followDigitFlags_inst (s : State) : s.followDigitFlags.inst = s.inst := by
  unfold State.followDigitFlags; split <;> simp
@[simp] theorem State.followDigitFlags_schedule (s : State) : s.followDigitFlags.schedule = s.schedule := by
  unfold State.followDigitFlags; split <;> simp
@[simp] theorem State.followDigitFlags_tick (s : State) : s.followDigitFlags.tick = s.tick := by
  unfold State.followDigitFlags; split <;> simp
@[simp] theorem State.followDigitFlags_written (s : State) : s.followDigitFlags.written = s.written := by
  unfold State.followDigitFlags; split <;> simp

@[simp] theorem State.resetFlag_x (s : State) (k : Nat) : (s.resetFlag k).x = s.x := by
  simp [State.resetFlag]
@[simp] theorem State.resetFlag_pc (s : State) (k : Nat) : (s.resetFlag k).pc = s.pc := by
  simp [State.resetFlag]
@[simp] theorem State.resetFlag_c2 (s : State) (k : Nat) : (s.resetFlag k).c2 = s.c2 := by
  simp [State.resetFlag]
@[simp] theorem State.resetFlag_vd5 (s : State) (k : Nat) : (s.resetFlag k).vd5 = s.vd5 := by
  simp [State.resetFlag]
@[simp] theorem State.resetFlag_vd12 (s : State) (k : Nat) : (s.resetFlag k).vd12 = s.vd12 := by
  simp [State.resetFlag]
@[simp] theorem State.resetFlag_interlock (s : State) (k : Nat) : (s.resetFlag k).interlock = s.interlock := by
  simp [State.resetFlag]
@[simp] theorem State.resetFlag_connect (s : State) (k : Nat) : (s.resetFlag k).connect = s.connect := by
  simp [State.resetFlag]
@[simp] theorem State.resetFlag_stopped (s : State) (k : Nat) : (s.resetFlag k).stopped = s.stopped := by
  simp [State.resetFlag]
@[simp] theorem State.resetFlag_mem (s : State) (k : Nat) : (s.resetFlag k).mem = s.mem := by
  simp [State.resetFlag]
@[simp] theorem State.resetFlag_trap (s : State) (k : Nat) : (s.resetFlag k).trap = s.trap := by
  simp [State.resetFlag]
@[simp] theorem State.resetFlag_inst (s : State) (k : Nat) : (s.resetFlag k).inst = s.inst := by
  simp [State.resetFlag]
@[simp] theorem State.resetFlag_schedule (s : State) (k : Nat) : (s.resetFlag k).schedule = s.schedule := by
  simp [State.resetFlag]
@[simp] theorem State.resetFlag_tick (s : State) (k : Nat) : (s.resetFlag k).tick = s.tick := by
  simp [State.resetFlag]
@[simp] theorem State.resetFlag_written (s : State) (k : Nat) : (s.resetFlag k).written = s.written := by
  simp [State.resetFlag]

@[simp] theorem State.store_pc (s : State) (a : Nat) (w : Word) : (s.store a w).pc = s.pc := by
  unfold State.store; split <;> rfl
@[simp] theorem State.store_c2 (s : State) (a : Nat) (w : Word) : (s.store a w).c2 = s.c2 := by
  unfold State.store; split <;> rfl
@[simp] theorem State.store_ff (s : State) (a : Nat) (w : Word) : (s.store a w).ff = s.ff := by
  unfold State.store; split <;> rfl
@[simp] theorem State.store_vd5 (s : State) (a : Nat) (w : Word) : (s.store a w).vd5 = s.vd5 := by
  unfold State.store; split <;> rfl
@[simp] theorem State.store_vd12 (s : State) (a : Nat) (w : Word) : (s.store a w).vd12 = s.vd12 := by
  unfold State.store; split <;> rfl
@[simp] theorem State.store_interlock (s : State) (a : Nat) (w : Word) : (s.store a w).interlock = s.interlock := by
  unfold State.store; split <;> rfl
@[simp] theorem State.store_connect (s : State) (a : Nat) (w : Word) : (s.store a w).connect = s.connect := by
  unfold State.store; split <;> rfl
@[simp] theorem State.store_stopped (s : State) (a : Nat) (w : Word) : (s.store a w).stopped = s.stopped := by
  unfold State.store; split <;> rfl
@[simp] theorem State.store_trap (s : State) (a : Nat) (w : Word) : (s.store a w).trap = s.trap := by
  unfold State.store; split <;> rfl
@[simp] theorem State.store_inst (s : State) (a : Nat) (w : Word) : (s.store a w).inst = s.inst := by
  unfold State.store; split <;> rfl
@[simp] theorem State.store_schedule (s : State) (a : Nat) (w : Word) : (s.store a w).schedule = s.schedule := by
  unfold State.store; split <;> rfl
@[simp] theorem State.store_tick (s : State) (a : Nat) (w : Word) : (s.store a w).tick = s.tick := by
  unfold State.store; split <;> rfl
@[simp] theorem State.store_written (s : State) (a : Nat) (w : Word) : (s.store a w).written = s.written := by
  unfold State.store; split <;> rfl

@[simp] theorem State.noteWrites_x (t : State) (i : Instr) (s : State) : (t.noteWrites i s).x = t.x := rfl
@[simp] theorem State.noteWrites_pc (t : State) (i : Instr) (s : State) : (t.noteWrites i s).pc = t.pc := rfl
@[simp] theorem State.noteWrites_c2 (t : State) (i : Instr) (s : State) : (t.noteWrites i s).c2 = t.c2 := rfl
@[simp] theorem State.noteWrites_ff (t : State) (i : Instr) (s : State) : (t.noteWrites i s).ff = t.ff := rfl
@[simp] theorem State.noteWrites_vd5 (t : State) (i : Instr) (s : State) : (t.noteWrites i s).vd5 = t.vd5 := rfl
@[simp] theorem State.noteWrites_vd12 (t : State) (i : Instr) (s : State) : (t.noteWrites i s).vd12 = t.vd12 := rfl
@[simp] theorem State.noteWrites_interlock (t : State) (i : Instr) (s : State) : (t.noteWrites i s).interlock = t.interlock := rfl
@[simp] theorem State.noteWrites_connect (t : State) (i : Instr) (s : State) : (t.noteWrites i s).connect = t.connect := rfl
@[simp] theorem State.noteWrites_stopped (t : State) (i : Instr) (s : State) : (t.noteWrites i s).stopped = t.stopped := rfl
@[simp] theorem State.noteWrites_mem (t : State) (i : Instr) (s : State) : (t.noteWrites i s).mem = t.mem := rfl
@[simp] theorem State.noteWrites_trap (t : State) (i : Instr) (s : State) : (t.noteWrites i s).trap = t.trap := rfl
@[simp] theorem State.noteWrites_inst (t : State) (i : Instr) (s : State) : (t.noteWrites i s).inst = t.inst := rfl
@[simp] theorem State.noteWrites_schedule (t : State) (i : Instr) (s : State) : (t.noteWrites i s).schedule = t.schedule := rfl
@[simp] theorem State.noteWrites_tick (t : State) (i : Instr) (s : State) : (t.noteWrites i s).tick = t.tick := rfl
@[simp] theorem State.noteWrites_written (t : State) (i : Instr) (s : State) :
    (t.noteWrites i s).written = (writtenAddresses i s :: s.written).take s.inst.prefetch := rfl

end Sys2Proof.Machine
end

