-- ==== Sys2Proof/Laws/Ops.lean ====
section
/-! SUPPORT. One lemma per shared operation of Machine/Ops.lean and Machine/Operands.lean, saying once what it can do. -/

namespace Sys2Proof.Machine
open Sys2Proof

/-! ### Results -/

@[simp] theorem res_ok_bind {α β : Type} (a : α) (f : α → Res β) : (Except.ok a >>= f : Res β) = f a := rfl

@[simp] theorem res_error_bind {α β : Type} (e : Stop) (f : α → Res β) :
    (Except.error e >>= f : Res β) = .error e := rfl

/-- A sequence of parts completes when both parts do. -/
theorem res_bind_eq_ok {α β : Type} {r : Res α} {f : α → Res β} {b : β} :
    (r >>= f) = .ok b ↔ ∃ a, r = .ok a ∧ f a = .ok b := by
  cases r <;> simp

/-- A meaning answers a next state exactly when all its parts complete. -/
theorem outcome_eq_next {r : Res State} {t : State} : outcome r = .next t ↔ r = .ok t := by
  unfold outcome
  split <;> simp

@[simp] theorem outcome_ok (t : State) : outcome (.ok t) = .next t := rfl
@[simp] theorem outcome_fault (r : Fault) : outcome (.error (.fault r)) = .fault r := rfl
@[simp] theorem outcome_refused (r : Refusal) : outcome (.error (.refused r)) = .refused r := rfl

/-! ### Registers -/

/-- An installed register has a number from 1 to 99. -/
theorem hasReg_range {s : State} {r : Nat} (h : s.hasReg r = true) : 1 ≤ r ∧ r ≤ 99 := by
  simp [State.hasReg, registersOf] at h
  omega

/-- Installed registers depend on the installation alone. -/
theorem hasReg_congr {s t : State} (h : t.inst = s.inst) (r : Nat) : t.hasReg r = s.hasReg r := by
  simp [State.hasReg, h]

@[simp] theorem reg_zero (s : State) : s.reg 0 = absoluteZero := rfl

/-- A register after a register is written. -/
theorem reg_setReg (s : State) (r q : Nat) (w : Word) (h1 : 1 ≤ r) (h2 : r ≤ 99) :
    (s.setReg r w).reg q = if q = r then w else s.reg q := by
  obtain ⟨n, rfl⟩ : ∃ n, r = n + 1 := ⟨r - 1, by omega⟩
  cases q with
  | zero => simp [State.reg]
  | succ k =>
    have hn : n < 99 := by omega
    simp only [State.reg, State.setReg_x, putReg]
    rw [Vector.getElem?_setIfInBounds]
    by_cases hk : n = k
    · subst hk
      simp [hn]
    · simp [hk, Ne.symm hk]

/-- The register written holds what was written. -/
theorem reg_setReg_same {s : State} {r : Nat} (h : s.hasReg r = true) (w : Word) : (s.setReg r w).reg r = w := by
  obtain ⟨h1, h2⟩ := hasReg_range h
  simp [reg_setReg s r r w h1 h2]

/-- Every other register holds what it held. -/
theorem reg_setReg_other (s : State) {r q : Nat} (w : Word) (h : q ≠ r) : (s.setReg r w).reg q = s.reg q := by
  by_cases h1 : 1 ≤ r ∧ r ≤ 99
  · simp [reg_setReg s r q w h1.1 h1.2, h]
  · cases r with
    | zero => rfl
    | succ n =>
      have hn : ¬ n < 99 := by omega
      cases q with
      | zero => rfl
      | succ k =>
        simp only [State.reg, State.setReg_x, putReg]
        rw [Vector.getElem?_setIfInBounds]
        have hk : n ≠ k := by omega
        simp [hk]

/-- Registers depend on the register file alone. -/
theorem reg_congr {s t : State} (h : t.x = s.x) (r : Nat) : t.reg r = s.reg r := by
  cases r <;> simp [State.reg, h]

/-- Every register after a pair is written. -/
theorem reg_setPair (s : State) (r q : Nat) (h l : Word) (hr : s.hasReg r = true) (hr' : s.hasReg (r + 1) = true) :
    (s.setPair r h l).reg q = if q = r + 1 then l else if q = r then h else s.reg q := by
  obtain ⟨h1, h2⟩ := hasReg_range hr
  obtain ⟨h3, h4⟩ := hasReg_range hr'
  rw [State.setPair, reg_setReg _ _ _ _ h3 h4, reg_setReg _ _ _ _ h1 h2]

/-- `getReg` gives the register when it is installed and refuses otherwise. -/
theorem getReg_eq_ok {s : State} {r : Nat} {w : Word} :
    getReg s r = .ok w ↔ s.hasReg r = true ∧ w = s.reg r := by
  unfold getReg
  split
  · next h =>
    constructor
    · intro e
      cases e
      exact ⟨h, rfl⟩
    · rintro ⟨-, rfl⟩
      rfl
  · next h => simp [h]

/-- `getAcc` likewise: number 00 is not installed. -/
theorem getAcc_eq_ok {s : State} {r : Nat} {w : Word} :
    getAcc s r = .ok w ↔ s.hasReg r = true ∧ w = s.reg r := by
  unfold getAcc
  split
  · next h => subst h; simp [State.hasReg]
  · exact getReg_eq_ok

/-- `regRead` gives absolute zero for number 00. -/
theorem regRead_eq_ok {s : State} {r : Nat} {w : Word} :
    regRead s r = .ok w ↔ (r = 0 ∨ s.hasReg r = true) ∧ w = s.reg r := by
  unfold regRead
  split
  · next h =>
    subst h
    constructor
    · intro e
      cases e
      exact ⟨.inl rfl, rfl⟩
    · rintro ⟨-, rfl⟩
      rfl
  · next h => simp [getReg_eq_ok, h]

/-- The pair A' is read when both registers are installed. -/
theorem getAccPair_eq_ok {s : State} {r : Nat} {p : Word × Word} :
    getAccPair s r = .ok p ↔ (s.hasReg r = true ∧ s.hasReg (r + 1) = true) ∧ p = (s.reg r, s.reg (r + 1)) := by
  unfold getAccPair
  simp only [res_bind_eq_ok, getAcc_eq_ok, getReg_eq_ok]
  constructor
  · rintro ⟨h, ⟨h1, rfl⟩, l, ⟨h2, rfl⟩, h3⟩
    exact ⟨⟨h1, h2⟩, by simpa [eq_comm] using h3⟩
  · rintro ⟨⟨h1, h2⟩, rfl⟩
    exact ⟨_, ⟨h1, rfl⟩, _, ⟨h2, rfl⟩, rfl⟩

/-! ### Addresses and storage -/

/-- A core address. -/
theorem region_core {i : Installation} {a : Nat} : region i a = .core ↔ a < coreWordsOf i := by
  unfold region
  split
  · simp [*]
  · split
    · simp; omega
    · split <;> simp <;> omega

/-- The address of a fast register. -/
theorem region_fast {i : Installation} {a r : Nat} :
    region i a = .fast r ↔ a = 99900 + r ∧ 1 ≤ r ∧ r ≤ registersOf i := by
  have hc : coreWordsOf i ≤ 97500 := Nat.min_le_right _ _
  unfold region
  split
  · simp; omega
  · split
    · simp; omega
    · split
      · simp; omega
      · simp; omega

/-- The constant's address. -/
theorem region_constant {i : Installation} {a : Nat} : region i a = .constant ↔ a = 99900 := by
  have hc : coreWordsOf i ≤ 97500 := Nat.min_le_right _ _
  unfold region
  split
  · simp; omega
  · split
    · simp [*]
    · split <;> simp <;> omega

/-- The register whose address is a fast one is installed. -/
theorem hasReg_of_fast {s : State} {a r : Nat} (h : region s.inst a = .fast r) : s.hasReg r = true := by
  obtain ⟨-, h1, h2⟩ := region_fast.1 h
  simp [State.hasReg, h1, h2]

/-- An address with something at it has five digits. -/
theorem mapped_lt {i : Installation} {a : Nat} (h : region i a ≠ .unmapped) : a ≤ 99999 := by
  have hc : coreWordsOf i ≤ 97500 := Nat.min_le_right _ _
  have hr : registersOf i ≤ 99 := by unfold registersOf; omega
  cases hreg : region i a with
  | core => have := region_core.1 hreg; omega
  | constant => have := region_constant.1 hreg; omega
  | fast r => have := region_fast.1 hreg; omega
  | unmapped => exact absurd hreg h

/-- Two addresses of a pair are both in core or both in the fast registers. -/
theorem sameRegion_iff {i : Installation} {a : Nat} :
    sameRegion i a = true ↔
      (region i a = .core ∧ region i (a + 1) = .core) ∨
      (∃ r, region i a = .fast r ∧ region i (a + 1) = .fast (r + 1)) := by
  unfold sameRegion
  constructor
  · intro h
    cases h0 : region i a <;> cases h1 : region i (a + 1) <;> simp_all [Region.alike]
    rw [region_fast] at h0 h1
    omega
  · rintro (⟨h0, h1⟩ | ⟨r, h0, h1⟩) <;> simp [h0, h1, Region.alike]

/-- The next address within a region is one more. -/
theorem succAddr_inside {i : Installation} {a : Nat} (h : sameRegion i a = true) : succAddr i a = a + 1 := by
  simp [succAddr, h]

/-- The next address always has five digits. -/
theorem succAddr_le (i : Installation) (a : Nat) : succAddr i a ≤ 99999 := by
  unfold succAddr
  split
  · next h =>
    refine mapped_lt (i := i) (a := a + 1) fun h' => ?_
    rcases sameRegion_iff.1 h with ⟨-, h1⟩ | ⟨r, -, h1⟩ <;> simp [h1] at h'
  · omega

/-- Storage reads depend on the register file, core and installation alone. -/
theorem load_congr {s t : State} (hx : t.x = s.x) (hm : t.mem = s.mem) (hi : t.inst = s.inst) (a : Nat) :
    t.load a = s.load a := by
  simp [State.load, hi, hm, reg_congr hx]

/-- What every address reads as after a register is written. -/
theorem load_setReg (s : State) (r a : Nat) (w : Word) (h : s.hasReg r = true) :
    (s.setReg r w).load a = if a = 99900 + r then w else s.load a := by
  obtain ⟨h1, h2⟩ := hasReg_range h
  have hr : r ≤ registersOf s.inst := by simp [State.hasReg] at h; exact h.2
  unfold State.load
  simp only [State.setReg_inst, State.setReg_mem]
  cases hreg : region s.inst a with
  | core =>
    have := region_core.1 hreg
    have hc : coreWordsOf s.inst ≤ 97500 := Nat.min_le_right _ _
    simp; omega
  | constant => have := region_constant.1 hreg; simp; omega
  | fast q =>
    obtain ⟨ha, -, -⟩ := region_fast.1 hreg
    simp only [reg_setReg s r q w h1 h2]
    by_cases hq : q = r
    · simp [hq, ha]
    · have : ¬ a = 99900 + r := by omega
      simp [hq, this]
  | unmapped =>
    have hne : ¬ a = 99900 + r := by
      intro ha
      have : region s.inst a = .fast r := region_fast.2 ⟨ha, h1, hr⟩
      simp [hreg] at this
    simp [hne]

/-- What every address reads as after a pair of registers is written. -/
theorem load_setPair (s : State) (r a : Nat) (h l : Word) (hr : s.hasReg r = true) (hr' : s.hasReg (r + 1) = true) :
    (s.setPair r h l).load a =
      if a = 99900 + (r + 1) then l else if a = 99900 + r then h else s.load a := by
  rw [State.setPair, load_setReg _ _ _ _ (by simpa [State.hasReg] using hr'), load_setReg _ _ _ _ hr]

/-- What every address reads as after a store. -/
theorem load_store (s : State) (a b : Nat) (w : Word) (hm : s.mem.wf = true)
    (ha : (region s.inst a).writable = true) : (s.store a w).load b = if b = a then w else s.load b := by
  cases hreg : region s.inst a with
  | core =>
    have hst : s.store a w = { s with mem := s.mem.write a w } := by simp [State.store, hreg]
    rw [hst]
    unfold State.load
    show (match region s.inst b with
      | .core => (s.mem.write a w).read b
      | .constant => absoluteZero
      | .fast r => State.reg { s with mem := s.mem.write a w } r
      | .unmapped => blankWord) = _
    by_cases hb : b = a
    · subst hb; simp [hreg, Memory.read_write s.mem b b w hm]
    · rw [if_neg hb]
      cases hregb : region s.inst b with
      | core => simp [Memory.read_write s.mem a b w hm, hb]
      | constant => rfl
      | fast r => exact reg_congr (t := { s with mem := s.mem.write a w }) rfl r
      | unmapped => rfl
  | constant => simp [hreg, Region.writable] at ha
  | unmapped => simp [hreg, Region.writable] at ha
  | fast r =>
    have hst : s.store a w = s.setReg r w := by simp [State.store, hreg]
    rw [hst, load_setReg s r b w (hasReg_of_fast hreg)]
    obtain ⟨h1, -, -⟩ := region_fast.1 hreg
    rw [h1]

/-- A store leaves every other address alone, whatever the form of storage. -/
theorem load_store_other (s : State) (a b : Nat) (w : Word) (h : b ≠ a) : (s.store a w).load b = s.load b := by
  cases hreg : region s.inst a with
  | core =>
    have hst : s.store a w = { s with mem := s.mem.write a w } := by simp [State.store, hreg]
    rw [hst]
    unfold State.load
    show (match region s.inst b with
      | .core => (s.mem.write a w).read b
      | .constant => absoluteZero
      | .fast r => State.reg { s with mem := s.mem.write a w } r
      | .unmapped => blankWord) = _
    cases hregb : region s.inst b with
    | core => exact Memory.read_write_other s.mem a b w h
    | constant => rfl
    | fast r => exact reg_congr (t := { s with mem := s.mem.write a w }) rfl r
    | unmapped => rfl
  | constant => simp [State.store, hreg]
  | unmapped => simp [State.store, hreg]
  | fast r =>
    have hst : s.store a w = s.setReg r w := by simp [State.store, hreg]
    obtain ⟨h1, -, -⟩ := region_fast.1 hreg
    rw [hst, load_setReg s r b w (hasReg_of_fast hreg), if_neg (by omega)]

/-- A store leaves a register alone unless its address is the one stored at. -/
theorem reg_store_other (s : State) (a r : Nat) (w : Word) (h : a ≠ 99900 + r) : (s.store a w).reg r = s.reg r := by
  unfold State.store
  split
  · exact reg_congr (t := { s with mem := s.mem.write a w }) rfl r
  · next q hq => exact reg_setReg_other s w fun hr => h (by subst hr; exact (region_fast.1 hq).1)
  · rfl
  · rfl

/-- A store keeps the canonical form of storage. -/
theorem store_mem_wf (s : State) (a : Nat) (w : Word) (hm : s.mem.wf = true) : (s.store a w).mem.wf = true := by
  unfold State.store
  split
  · exact Memory.wf_write _ _ _ hm
  · exact hm
  · exact hm
  · exact hm

/-- A one-word read. -/
theorem read1_eq_ok {s : State} {a : Nat} {w : Word} :
    read1 s a = .ok w ↔ region s.inst a ≠ .unmapped ∧ w = s.load a := by
  unfold read1
  split
  · next h => simp [h]
  · next h =>
    constructor
    · intro e
      cases e
      exact ⟨h, rfl⟩
    · rintro ⟨-, rfl⟩
      rfl

/-- A two-word read. -/
theorem read2_eq_ok {s : State} {a : Nat} {p : Word × Word} :
    read2 s a = .ok p ↔ sameRegion s.inst a = true ∧ p = (s.load a, s.load (a + 1)) := by
  unfold read2
  split
  · next h =>
    constructor
    · intro e
      cases e
      exact ⟨h, rfl⟩
    · rintro ⟨-, rfl⟩
      rfl
  · next h => simp [h]

/-- A one-word store. -/
theorem write1_eq_ok {s t : State} {a : Nat} {w : Word} :
    write1 s a w = .ok t ↔ (region s.inst a).writable = true ∧ t = s.store a w := by
  unfold write1
  cases h : region s.inst a <;> simp [Region.writable, eq_comm]

/-- A two-word store. -/
theorem write2_eq_ok {s t : State} {a : Nat} {h l : Word} :
    write2 s a h l = .ok t ↔ sameRegion s.inst a = true ∧ t = (s.store a h).store (a + 1) l := by
  unfold write2
  split
  · next h =>
    constructor
    · intro e
      cases e
      exact ⟨h, rfl⟩
    · rintro ⟨-, rfl⟩
      rfl
  · next h => simp [h]

/-- Both addresses of a pair in one region can be stored at. -/
theorem writable_of_same {i : Installation} {a : Nat} (h : sameRegion i a = true) :
    (region i a).writable = true ∧ (region i (a + 1)).writable = true := by
  rcases sameRegion_iff.1 h with ⟨h0, h1⟩ | ⟨r, h0, h1⟩ <;> simp [h0, h1, Region.writable]

/-! ### The effective address -/

/-- Without an index register the effective M-digits are the M-digits. -/
@[simp] theorem effM_no_index (s : State) (t : TDigit) (a m : Nat) : effM s ⟨t, a, 0, m⟩ = .ok m := rfl

/-- The effective M-digits are formed unless the index register is missing. -/
theorem effM_eq_ok {s : State} {o : Fields} {ea : Nat} :
    effM s o = .ok ea ↔
      (o.b = 0 ∧ ea = o.m) ∨
      (o.b ≠ 0 ∧ s.hasReg o.b = true ∧
        ea = if o.m + num (slice (s.reg o.b) 5 1) ≤ 99999 then o.m + num (slice (s.reg o.b) 5 1)
          else Config.overflowEA o.m (num (slice (s.reg o.b) 5 1)) % 100000) := by
  unfold effM
  split
  · next h =>
    constructor
    · intro e
      cases e
      exact .inl ⟨h, rfl⟩
    · rintro (⟨-, rfl⟩ | ⟨h1, -⟩)
      · rfl
      · exact absurd h h1
  · next h =>
    simp only [res_bind_eq_ok, getReg_eq_ok]
    constructor
    · rintro ⟨w, ⟨h1, rfl⟩, h2⟩
      exact .inr ⟨h, h1, by simpa [eq_comm] using h2⟩
    · rintro (⟨h1, -⟩ | ⟨-, h1, rfl⟩)
      · exact absurd h1 h
      · exact ⟨_, ⟨h1, rfl⟩, rfl⟩

/-- The effective M-digits of a well-formed instruction are five digits. -/
theorem effM_le {s : State} {o : Fields} {ea : Nat} (hm : o.m ≤ 99999) (h : effM s o = .ok ea) : ea ≤ 99999 := by
  rcases effM_eq_ok.1 h with ⟨-, rfl⟩ | ⟨-, -, rfl⟩
  · exact hm
  · split <;> omega

/-! ### Flip-flops -/

/-- A flip-flop after one is written. -/
theorem flag_putFlag (s : State) (k j : Nat) (b : Bool) (hk : k < 100) :
    (s.putFlag k b).flag j = if j = k then b else s.flag j := by
  simp only [State.flag, State.putFlag_ff]
  rw [Vector.getElem?_setIfInBounds]
  by_cases h : k = j
  · subst h; simp [hk]
  · simp [h, Ne.symm h]

/-- Flip-flops depend on the flip-flop vector alone. -/
theorem flag_congr {s t : State} (h : t.ff = s.ff) (k : Nat) : t.flag k = s.flag k := by
  simp [State.flag, h]

/-- Every flip-flop after several are set. -/
theorem flag_putFlags (s : State) (l : List Nat) (j : Nat) (hl : ∀ k ∈ l, k < 100) :
    (s.putFlags l).flag j = (decide (j ∈ l) || s.flag j) := by
  induction l generalizing s with
  | nil => simp [State.putFlags]
  | cons k l ih =>
    rw [State.putFlags, ih _ fun x hx => hl x (by simp [hx]), flag_putFlag _ _ _ _ (hl k (by simp))]
    by_cases h : j = k <;> simp [h]

/-- Every flip-flop after several are reset. -/
theorem flag_clearFlags (s : State) (l : List Nat) (j : Nat) (hl : ∀ k ∈ l, k < 100) :
    (s.clearFlags l).flag j = (!decide (j ∈ l) && s.flag j) := by
  induction l generalizing s with
  | nil => simp [State.clearFlags]
  | cons k l ih =>
    rw [State.clearFlags, ih _ fun x hx => hl x (by simp [hx]), flag_putFlag _ _ _ _ (hl k (by simp))]
    by_cases h : j = k <;> simp [h]

/-- The masters recomputed; every other flip-flop as it was. -/
theorem flag_refreshMasters (s : State) (j : Nat) :
    s.refreshMasters.flag j =
      if j = 99 then contingencyFlags.any s.flag else if j = 98 then errorFlags.any s.flag else s.flag j := by
  rw [State.refreshMasters, flag_putFlag _ _ _ _ (by decide), flag_putFlag _ _ _ _ (by decide)]

/-- 71 to 82 reset once the fourteen are; every other flip-flop as it was. -/
theorem flag_followDigitFlags (s : State) (j : Nat) :
    s.followDigitFlags.flag j =
      (s.flag j && (oddEvenFlags.any s.flag || !decide (j ∈ digitFlags))) := by
  unfold State.followDigitFlags
  split
  · next h => simp [h]
  · next h =>
    rw [flag_clearFlags _ _ _ (by decide)]
    simp only [Bool.not_eq_true] at h
    simp [h, Bool.and_comm]

/-- The master's number is a flip-flop number. -/
theorem masterOf_lt (k : TrapKind) : masterOf k < 100 := by cases k <;> decide

/-- Every flip-flop after an event is raised. -/
theorem flag_raise (s : State) (kind : TrapKind) (l : List Nat) (j : Nat) (hl : ∀ k ∈ l, k < 100) :
    (s.raise kind l).flag j = (decide (j ∈ l) || (decide (l ≠ [] ∧ j = masterOf kind)) || s.flag j) := by
  cases l with
  | nil => simp [State.raise]
  | cons k l =>
    have : (s.raise kind (k :: l)).flag j = ((s.putFlags (k :: l)).putFlag (masterOf kind) true).flag j := rfl
    rw [this, flag_putFlag _ _ _ _ (masterOf_lt kind), flag_putFlags _ _ _ hl]
    by_cases h : j = masterOf kind <;> simp [h]

/-- With nothing to raise nothing is raised. -/
@[simp] theorem raise_nil (s : State) (kind : TrapKind) : s.raise kind [] = s := rfl
@[simp] theorem raiseContingency_nil (s : State) : s.raiseContingency [] = s := rfl

/-! ### The shapes of the arithmetic instructions -/

/-- Single-precision arithmetic to register A completes when the operand and A are there. -/
theorem arithA_eq_ok {f : Word → Word → Nat → Result1} {o : Fields} {s t : State} :
    arithA f o s = .ok t ↔
      ∃ ea, effM s o = .ok ea ∧ region s.inst ea ≠ .unmapped ∧ s.hasReg o.a = true ∧
        t = s.deposit1 o.a (f (s.reg o.a) (s.load ea) s.tick) := by
  unfold arithA
  simp only [res_bind_eq_ok, read1_eq_ok, getAcc_eq_ok]
  constructor
  · rintro ⟨ea, he, m, ⟨hm, rfl⟩, a, ⟨ha, rfl⟩, h⟩
    exact ⟨ea, he, hm, ha, by simpa [eq_comm] using h⟩
  · rintro ⟨ea, he, hm, ha, rfl⟩
    exact ⟨ea, he, _, ⟨hm, rfl⟩, _, ⟨ha, rfl⟩, rfl⟩

/-- Single-precision arithmetic to register A+1. -/
theorem arithUp_eq_ok {f : Word → Word → Nat → Result1} {o : Fields} {s t : State} :
    arithUp f o s = .ok t ↔
      ∃ ea, effM s o = .ok ea ∧ region s.inst ea ≠ .unmapped ∧ (s.hasReg o.a = true ∧ s.hasReg (o.a + 1) = true) ∧
        t = s.deposit1 (o.a + 1) (f (s.reg o.a) (s.load ea) s.tick) := by
  unfold arithUp
  simp only [res_bind_eq_ok, read1_eq_ok, getAccPair_eq_ok]
  constructor
  · rintro ⟨ea, he, m, ⟨hm, rfl⟩, p, ⟨ha, rfl⟩, h⟩
    exact ⟨ea, he, hm, ha, by simpa [eq_comm] using h⟩
  · rintro ⟨ea, he, hm, ha, rfl⟩
    exact ⟨ea, he, _, ⟨hm, rfl⟩, _, ⟨ha, rfl⟩, rfl⟩

/-- Single-precision operands, a result to A'. -/
theorem arithExt_eq_ok {f : Word → Word → Nat → Result2} {o : Fields} {s t : State} :
    arithExt f o s = .ok t ↔
      ∃ ea, effM s o = .ok ea ∧ region s.inst ea ≠ .unmapped ∧ (s.hasReg o.a = true ∧ s.hasReg (o.a + 1) = true) ∧
        t = s.deposit2 o.a (f (s.reg o.a) (s.load ea) s.tick) := by
  unfold arithExt
  simp only [res_bind_eq_ok, read1_eq_ok, getAccPair_eq_ok]
  constructor
  · rintro ⟨ea, he, m, ⟨hm, rfl⟩, p, ⟨ha, rfl⟩, h⟩
    exact ⟨ea, he, hm, ha, by simpa [eq_comm] using h⟩
  · rintro ⟨ea, he, hm, ha, rfl⟩
    exact ⟨ea, he, _, ⟨hm, rfl⟩, _, ⟨ha, rfl⟩, rfl⟩

/-- Double-precision arithmetic. -/
theorem arithPair_eq_ok {f : Word × Word → Word × Word → Nat → Result2} {o : Fields} {s t : State} :
    arithPair f o s = .ok t ↔
      ∃ ea, effM s o = .ok ea ∧ sameRegion s.inst ea = true ∧ (s.hasReg o.a = true ∧ s.hasReg (o.a + 1) = true) ∧
        t = s.deposit2 o.a (f (s.reg o.a, s.reg (o.a + 1)) (s.load ea, s.load (ea + 1)) s.tick) := by
  unfold arithPair
  simp only [res_bind_eq_ok, read2_eq_ok, getAccPair_eq_ok]
  constructor
  · rintro ⟨ea, he, m, ⟨hm, rfl⟩, p, ⟨ha, rfl⟩, h⟩
    exact ⟨ea, he, hm, ha, by simpa [eq_comm] using h⟩
  · rintro ⟨ea, he, hm, ha, rfl⟩
    exact ⟨ea, he, _, ⟨hm, rfl⟩, _, ⟨ha, rfl⟩, rfl⟩

/-- A double-precision operand by a single-precision one. -/
theorem arithPairBy_eq_ok {f : Word × Word → Word → Nat → Result2} {o : Fields} {s t : State} :
    arithPairBy f o s = .ok t ↔
      ∃ ea, effM s o = .ok ea ∧ region s.inst ea ≠ .unmapped ∧ (s.hasReg o.a = true ∧ s.hasReg (o.a + 1) = true) ∧
        t = s.deposit2 o.a (f (s.reg o.a, s.reg (o.a + 1)) (s.load ea) s.tick) := by
  unfold arithPairBy
  simp only [res_bind_eq_ok, read1_eq_ok, getAccPair_eq_ok]
  constructor
  · rintro ⟨ea, he, m, ⟨hm, rfl⟩, p, ⟨ha, rfl⟩, h⟩
    exact ⟨ea, he, hm, ha, by simpa [eq_comm] using h⟩
  · rintro ⟨ea, he, hm, ha, rfl⟩
    exact ⟨ea, he, _, ⟨hm, rfl⟩, _, ⟨ha, rfl⟩, rfl⟩

/-- An operation on register A alone. -/
theorem onAcc_eq_ok {f : Nat → Word → Nat → Result1} {o : Fields} {s t : State} :
    onAcc f o s = .ok t ↔
      ∃ ea, effM s o = .ok ea ∧ s.hasReg o.a = true ∧ t = s.deposit1 o.a (f (countOf ea) (s.reg o.a) s.tick) := by
  unfold onAcc
  simp only [res_bind_eq_ok, getAcc_eq_ok]
  constructor
  · rintro ⟨ea, he, a, ⟨ha, rfl⟩, h⟩
    exact ⟨ea, he, ha, by simpa [eq_comm] using h⟩
  · rintro ⟨ea, he, ha, rfl⟩
    exact ⟨ea, he, _, ⟨ha, rfl⟩, rfl⟩

/-- An operation on the pair A'. -/
theorem onAccPair_eq_ok {f : Nat → Word × Word → Nat → Result2} {o : Fields} {s t : State} :
    onAccPair f o s = .ok t ↔
      ∃ ea, effM s o = .ok ea ∧ (s.hasReg o.a = true ∧ s.hasReg (o.a + 1) = true) ∧
        t = s.deposit2 o.a (f (countOf ea) (s.reg o.a, s.reg (o.a + 1)) s.tick) := by
  unfold onAccPair
  simp only [res_bind_eq_ok, getAccPair_eq_ok]
  constructor
  · rintro ⟨ea, he, a, ⟨ha, rfl⟩, h⟩
    exact ⟨ea, he, ha, by simpa [eq_comm] using h⟩
  · rintro ⟨ea, he, ha, rfl⟩
    exact ⟨ea, he, _, ⟨ha, rfl⟩, rfl⟩

/-- With no contingency a deposit writes the register and steps C. -/
theorem deposit1_quiet (s : State) (r : Nat) (w : Word) : s.deposit1 r ⟨w, []⟩ = (s.setReg r w).next := rfl

/-- The same for two words. -/
theorem deposit2_quiet (s : State) (r : Nat) (h l : Word) : s.deposit2 r ⟨h, l, []⟩ = (s.setPair r h l).next := rfl

/-! ### The end of an instruction, and the transfer to a routine -/

/-- An instruction settles in a next state when it answered one, and the spec states its result or the reading is not the
strict one; what it wrote is recorded and nothing else is changed. -/
theorem settle_eq_next {i : Instr} {s t : State} {r : Out} :
    settle i s r = .next t ↔ ∃ u, r = .next u ∧ (unstated i s = none ∨ s.inst.strict = false) ∧ t = u.noteWrites i s := by
  cases r with
  | next u => cases h : unstated i s <;> cases hs : s.inst.strict <;> simp [settle, h, hs, eq_comm]
  | fault f => simp [settle]
  | refused f => simp [settle]

/-- After the transfer to a routine no event is pending and the model's own fields are kept; a good state leads to a good
one. -/
theorem enterRoutine_spec (s : State) (e : Trap) :
    (s.enterRoutine e).trap = none ∧ (s.enterRoutine e).inst = s.inst ∧ (s.enterRoutine e).written = s.written ∧
      (s.enterRoutine e).schedule = s.schedule ∧ (s.enterRoutine e).tick = s.tick ∧
      (s.good = true → (s.enterRoutine e).good = true) := by
  unfold State.enterRoutine
  dsimp only
  split
  · next h => exact ⟨rfl, rfl, rfl, rfl, rfl, fun _ => h⟩
  · exact ⟨rfl, rfl, rfl, rfl, rfl, id⟩

end Sys2Proof.Machine
end

