-- ==== Sys2Proof/Laws/PerInstr.lean ====
section
/-! SUPPORT. Facts about every instruction as syntax, one lemma per constructor. -/

namespace Sys2Proof.Laws.NumberNames
open Sys2Proof

/-- The instruction number and the fields give the instruction back (30_encoding.md R110): no two rows share a number. -/
def Statement (i : Instr) : Prop := instrOfNumber i.number i.fields = some i

theorem sk (o : Fields) : Statement (.sk o) := rfl
theorem ax (o : Fields) : Statement (.ax o) := rfl
theorem a (o : Fields) : Statement (.a o) := rfl
theorem am (o : Fields) : Statement (.am o) := rfl
theorem au (o : Fields) : Statement (.au o) := rfl
theorem aax (o : Fields) : Statement (.aax o) := rfl
theorem aa (o : Fields) : Statement (.aa o) := rfl
theorem fv (o : Fields) : Statement (.fv o) := rfl
theorem nx (o : Fields) : Statement (.nx o) := rfl
theorem n (o : Fields) : Statement (.n o) := rfl
theorem nu (o : Fields) : Statement (.nu o) := rfl
theorem nnx (o : Fields) : Statement (.nnx o) := rfl
theorem nn (o : Fields) : Statement (.nn o) := rfl
theorem fvk (o : Fields) : Statement (.fvk o) := rfl
theorem mxr (o : Fields) : Statement (.mxr o) := rfl
theorem mxe (o : Fields) : Statement (.mxe o) := rfl
theorem mr (o : Fields) : Statement (.mr o) := rfl
theorem m (o : Fields) : Statement (.m o) := rfl
theorem mu (o : Fields) : Statement (.mu o) := rfl
theorem me (o : Fields) : Statement (.me o) := rfl
theorem mmx (o : Fields) : Statement (.mmx o) := rfl
theorem mm (o : Fields) : Statement (.mm o) := rfl
theorem sv (o : Fields) : Statement (.sv o) := rfl
theorem dx (o : Fields) : Statement (.dx o) := rfl
theorem dxe (o : Fields) : Statement (.dxe o) := rfl
theorem dr (o : Fields) : Statement (.dr o) := rfl
theorem dur (o : Fields) : Statement (.dur o) := rfl
theorem ddx (o : Fields) : Statement (.ddx o) := rfl
theorem dd (o : Fields) : Statement (.dd o) := rfl
theorem dse (o : Fields) : Statement (.dse o) := rfl
theorem svk (o : Fields) : Statement (.svk o) := rfl
theorem s (o : Fields) : Statement (.s o) := rfl
theorem sn (o : Fields) : Statement (.sn o) := rfl
theorem sm (o : Fields) : Statement (.sm o) := rfl
theorem f (o : Fields) : Statement (.f o) := rfl
theorem ss (o : Fields) : Statement (.ss o) := rfl
theorem ssn (o : Fields) : Statement (.ssn o) := rfl
theorem ssm (o : Fields) : Statement (.ssm o) := rfl
theorem ff (o : Fields) : Statement (.ff o) := rfl
theorem cx (o : Fields) : Statement (.cx o) := rfl
theorem c (o : Fields) : Statement (.c o) := rfl
theorem pr (o : Fields) : Statement (.pr o) := rfl
theorem pl (o : Fields) : Statement (.pl o) := rfl
theorem ccx (o : Fields) : Statement (.ccx o) := rfl
theorem cc (o : Fields) : Statement (.cc o) := rfl
theorem ppr (o : Fields) : Statement (.ppr o) := rfl
theorem ppl (o : Fields) : Statement (.ppl o) := rfl
theorem ppc (o : Fields) : Statement (.ppc o) := rfl
theorem eop (o : Fields) : Statement (.eop o) := rfl
theorem ea (o : Fields) : Statement (.ea o) := rfl
theorem eb (o : Fields) : Statement (.eb o) := rfl
theorem eab (o : Fields) : Statement (.eab o) := rfl
theorem em (o : Fields) : Statement (.em o) := rfl
theorem el (o : Fields) : Statement (.el o) := rfl
theorem eu (o : Fields) : Statement (.eu o) := rfl
theorem te (o : Fields) : Statement (.te o) := rfl
theorem tg (o : Fields) : Statement (.tg o) := rfl
theorem tz (o : Fields) : Statement (.tz o) := rfl
theorem tgz (o : Fields) : Statement (.tgz o) := rfl
theorem tlz (o : Fields) : Statement (.tlz o) := rfl
theorem tte (o : Fields) : Statement (.tte o) := rfl
theorem ttg (o : Fields) : Statement (.ttg o) := rfl
theorem bit (o : Fields) : Statement (.bit o) := rfl
theorem bdt (o : Fields) : Statement (.bdt o) := rfl
theorem bic (o : Fields) : Statement (.bic o) := rfl
theorem bdc (o : Fields) : Statement (.bdc o) := rfl
theorem bi (o : Fields) : Statement (.bi o) := rfl
theorem bd (o : Fields) : Statement (.bd o) := rfl
theorem t (o : Fields) : Statement (.t o) := rfl
theorem tr (o : Fields) : Statement (.tr o) := rfl
theorem tb (o : Fields) : Statement (.tb o) := rfl
theorem slj (o : Fields) : Statement (.slj o) := rfl
theorem tf (o : Fields) : Statement (.tf o) := rfl
theorem rf (o : Fields) : Statement (.rf o) := rfl
theorem sf (o : Fields) : Statement (.sf o) := rfl
theorem h (o : Fields) : Statement (.h o) := rfl

end Sys2Proof.Laws.NumberNames
end

