-- ==== Sys2Proof/Tests/Slice0.lean ====
section
/-! SUPPORT. Tests of the model on fixed values: the well-formedness checks, the decoder on words written out digit by digit,
single steps taken from spec/95_test_vectors.md (the number behind `V` or `S` in a theorem's name is the vector's), the
canonical form of storage, and for every statement of Certificates/Slice0 states and operands that meet its hypotheses. -/

namespace Sys2Proof.Tests

set_option Elab.async false

open Sys2Proof Sys2Proof.Machine

/-- A word: its sign position and the eleven digits below it. -/
def w (sg : Chr) (v : Nat) : Word := wordOf sg (dig 11 v)

/-- The word whose T-digit is `t` and whose other positions hold these digits. -/
def ins (t : Chr) (l : List (Fin 10)) : Word := Word.ofChars (t :: l.map Chr.d)

/-- The state after reset with these registers and core words, and C at 00100. -/
def st (regs cells : List (Nat × Word)) : State :=
  { State.reset with
    x := regs.foldl (fun x e => putReg x e.1 e.2) State.reset.x,
    mem := cells.foldl (fun m e => m.write e.1 e.2) [], pc := 100 }

/-- The same in the reading that refuses no unstated result. -/
def running (s : State) : State := { s with inst := { s.inst with strict := false } }

/-- The next state an instruction answers. -/
def after (i : Instr) (s : State) : Option State :=
  match exec i s with
  | .next t => some t
  | .fault _ => none
  | .refused _ => none

/-- The flip-flops that are set. -/
def flagsOf (s : State) : List Nat := (List.range 100).filter s.flag

/-! ### Decoding (30_encoding.md R90, R110) -/

theorem test_decode_sk :
    decode (ins .period [0, 0, 4, 1, 1, 9, 5, 1, 7, 5, 0]) = .instr (.sk ⟨.untraced, 41, 19, 51750⟩) ∧
    decode (ins .period [0, 9, 0, 9, 6, 8, 1, 2, 3, 3, 7]) = .instr (.fv ⟨.untraced, 9, 68, 12337⟩) ∧
    decode (ins (.d 3) [1, 9, 7, 4, 0, 7, 6, 6, 5, 1, 0]) = .instr (.fvk ⟨.selector 3, 74, 7, 66510⟩) ∧
    decode (ins .period [2, 9, 0, 4, 1, 1, 5, 6, 8, 3, 8]) = .instr (.sv ⟨.untraced, 4, 11, 56838⟩) ∧
    decode (ins .period [3, 9, 0, 8, 3, 0, 1, 1, 8, 8, 9]) = .instr (.svk ⟨.untraced, 8, 30, 11889⟩) ∧
    decode (ins (.d 1) [9, 6, 5, 4, 0, 7, 7, 4, 1, 1, 5]) = .instr (.rf ⟨.selector 1, 54, 7, 74115⟩) ∧
    decode (ins .period [9, 7, 2, 8, 8, 0, 8, 2, 2, 3, 8]) = .instr (.sf ⟨.untraced, 28, 80, 82238⟩) ∧
    decode (ins .period [9, 9, 0, 7, 7, 3, 7, 6, 7, 4, 8]) = .instr (.h ⟨.untraced, 7, 73, 76748⟩) := by decide

theorem test_decode_addsub :
    decode (ins (.d 8) [0, 1, 0, 6, 2, 8, 0, 6, 1, 0, 5]) = .instr (.ax ⟨.selector 8, 6, 28, 6105⟩) ∧
    decode (ins .period [0, 2, 1, 7, 3, 7, 5, 4, 9, 3, 7]) = .instr (.a ⟨.untraced, 17, 37, 54937⟩) ∧
    decode (ins .period [0, 3, 6, 9, 1, 5, 7, 4, 8, 3, 0]) = .instr (.am ⟨.untraced, 69, 15, 74830⟩) ∧
    decode (ins (.d 1) [0, 4, 7, 1, 8, 7, 2, 3, 6, 8, 8]) = .instr (.au ⟨.selector 1, 71, 87, 23688⟩) ∧
    decode (ins .period [0, 5, 7, 4, 7, 3, 8, 3, 7, 4, 3]) = .instr (.aax ⟨.untraced, 74, 73, 83743⟩) ∧
    decode (ins .period [0, 6, 4, 7, 1, 2, 7, 1, 7, 9, 3]) = .instr (.aa ⟨.untraced, 47, 12, 71793⟩) ∧
    decode (ins (.d 3) [1, 1, 7, 2, 0, 7, 8, 1, 1, 3, 4]) = .instr (.nx ⟨.selector 3, 72, 7, 81134⟩) ∧
    decode (ins .period [1, 2, 6, 3, 8, 7, 6, 9, 6, 9, 3]) = .instr (.n ⟨.untraced, 63, 87, 69693⟩) ∧
    decode (ins .period [1, 4, 9, 9, 4, 0, 6, 1, 0, 2, 7]) = .instr (.nu ⟨.untraced, 99, 40, 61027⟩) ∧
    decode (ins (.d 3) [1, 5, 5, 8, 4, 6, 3, 9, 2, 9, 1]) = .instr (.nnx ⟨.selector 3, 58, 46, 39291⟩) ∧
    decode (ins .period [1, 6, 2, 3, 8, 9, 3, 1, 9, 9, 4]) = .instr (.nn ⟨.untraced, 23, 89, 31994⟩) := by decide

theorem test_decode_muldiv :
    decode (ins .period [2, 0, 7, 3, 3, 8, 6, 8, 8, 3, 8]) = .instr (.mxr ⟨.untraced, 73, 38, 68838⟩) ∧
    decode (ins (.d 4) [2, 1, 4, 3, 9, 3, 5, 8, 8, 2, 9]) = .instr (.mxe ⟨.selector 4, 43, 93, 58829⟩) ∧
    decode (ins .period [2, 2, 7, 7, 0, 9, 1, 5, 4, 7, 5]) = .instr (.mr ⟨.untraced, 77, 9, 15475⟩) ∧
    decode (ins .period [2, 3, 5, 3, 2, 1, 9, 9, 2, 3, 9]) = .instr (.m ⟨.untraced, 53, 21, 99239⟩) ∧
    decode (ins .period [2, 4, 1, 9, 6, 2, 5, 5, 2, 7, 2]) = .instr (.mu ⟨.untraced, 19, 62, 55272⟩) ∧
    decode (ins .period [2, 5, 8, 5, 0, 9, 7, 3, 1, 4, 8]) = .instr (.me ⟨.untraced, 85, 9, 73148⟩) ∧
    decode (ins .period [2, 6, 4, 0, 4, 3, 9, 1, 1, 3, 3]) = .instr (.mmx ⟨.untraced, 40, 43, 91133⟩) ∧
    decode (ins (.d 7) [2, 7, 7, 6, 6, 3, 7, 6, 0, 0, 8]) = .instr (.mm ⟨.selector 7, 76, 63, 76008⟩) ∧
    decode (ins .period [3, 0, 0, 8, 1, 1, 3, 5, 3, 8, 1]) = .instr (.dx ⟨.untraced, 8, 11, 35381⟩) ∧
    decode (ins .period [3, 1, 8, 9, 8, 5, 0, 8, 5, 1, 9]) = .instr (.dxe ⟨.untraced, 89, 85, 8519⟩) ∧
    decode (ins (.d 9) [3, 2, 9, 3, 8, 9, 4, 0, 5, 8, 0]) = .instr (.dr ⟨.selector 9, 93, 89, 40580⟩) ∧
    decode (ins .period [3, 4, 8, 7, 5, 7, 3, 7, 3, 0, 2]) = .instr (.dur ⟨.untraced, 87, 57, 37302⟩) ∧
    decode (ins .period [3, 5, 8, 5, 4, 4, 0, 2, 9, 5, 7]) = .instr (.ddx ⟨.untraced, 85, 44, 2957⟩) ∧
    decode (ins (.d 1) [3, 6, 4, 5, 2, 1, 8, 0, 0, 7, 4]) = .instr (.dd ⟨.selector 1, 45, 21, 80074⟩) ∧
    decode (ins .period [3, 7, 6, 3, 0, 7, 2, 8, 6, 0, 0]) = .instr (.dse ⟨.untraced, 63, 7, 28600⟩) := by decide

theorem test_decode_data_transfer :
    decode (ins .period [4, 0, 1, 6, 9, 4, 3, 2, 4, 5, 5]) = .instr (.s ⟨.untraced, 16, 94, 32455⟩) ∧
    decode (ins (.d 2) [4, 1, 5, 0, 6, 3, 1, 0, 5, 6, 1]) = .instr (.sn ⟨.selector 2, 50, 63, 10561⟩) ∧
    decode (ins .period [4, 2, 5, 7, 5, 1, 7, 2, 0, 1, 6]) = .instr (.sm ⟨.untraced, 57, 51, 72016⟩) ∧
    decode (ins .period [4, 3, 1, 7, 5, 5, 7, 2, 1, 1, 8]) = .instr (.f ⟨.untraced, 17, 55, 72118⟩) ∧
    decode (ins (.d 6) [4, 5, 9, 0, 5, 3, 4, 7, 0, 2, 4]) = .instr (.ss ⟨.selector 6, 90, 53, 47024⟩) ∧
    decode (ins .period [4, 6, 2, 9, 1, 9, 1, 0, 8, 7, 6]) = .instr (.ssn ⟨.untraced, 29, 19, 10876⟩) ∧
    decode (ins .period [4, 7, 1, 9, 2, 9, 8, 6, 3, 1, 3]) = .instr (.ssm ⟨.untraced, 19, 29, 86313⟩) ∧
    decode (ins (.d 2) [4, 8, 0, 1, 6, 2, 7, 7, 2, 1, 7]) = .instr (.ff ⟨.selector 2, 1, 62, 77217⟩) ∧
    decode (ins .period [6, 0, 3, 3, 3, 6, 0, 0, 5, 3, 6]) = .instr (.eop ⟨.untraced, 33, 36, 536⟩) ∧
    decode (ins .period [6, 1, 5, 3, 6, 8, 4, 8, 3, 9, 8]) = .instr (.ea ⟨.untraced, 53, 68, 48398⟩) ∧
    decode (ins (.d 8) [6, 2, 7, 2, 4, 0, 1, 6, 4, 4, 8]) = .instr (.eb ⟨.selector 8, 72, 40, 16448⟩) ∧
    decode (ins .period [6, 3, 7, 9, 8, 3, 8, 8, 6, 3, 0]) = .instr (.eab ⟨.untraced, 79, 83, 88630⟩) ∧
    decode (ins .period [6, 4, 5, 8, 9, 9, 8, 9, 2, 0, 4]) = .instr (.em ⟨.untraced, 58, 99, 89204⟩) ∧
    decode (ins (.d 6) [9, 3, 5, 0, 5, 0, 5, 2, 2, 9, 4]) = .instr (.slj ⟨.selector 6, 50, 50, 52294⟩) := by decide

theorem test_decode_convert_shift :
    decode (ins .period [5, 0, 1, 3, 6, 1, 8, 3, 1, 3, 7]) = .instr (.cx ⟨.untraced, 13, 61, 83137⟩) ∧
    decode (ins .period [5, 1, 0, 7, 2, 4, 0, 8, 8, 2, 7]) = .instr (.c ⟨.untraced, 7, 24, 8827⟩) ∧
    decode (ins (.d 5) [5, 2, 5, 6, 2, 0, 1, 4, 4, 0, 8]) = .instr (.pr ⟨.selector 5, 56, 20, 14408⟩) ∧
    decode (ins .period [5, 3, 7, 6, 0, 6, 1, 3, 4, 1, 9]) = .instr (.pl ⟨.untraced, 76, 6, 13419⟩) ∧
    decode (ins .period [5, 5, 7, 2, 1, 9, 7, 0, 3, 3, 5]) = .instr (.ccx ⟨.untraced, 72, 19, 70335⟩) ∧
    decode (ins (.d 1) [5, 6, 4, 6, 7, 8, 0, 3, 3, 4, 2]) = .instr (.cc ⟨.selector 1, 46, 78, 3342⟩) ∧
    decode (ins .period [5, 7, 2, 6, 7, 8, 4, 9, 3, 1, 3]) = .instr (.ppr ⟨.untraced, 26, 78, 49313⟩) ∧
    decode (ins .period [5, 8, 8, 1, 3, 2, 4, 5, 5, 3, 3]) = .instr (.ppl ⟨.untraced, 81, 32, 45533⟩) ∧
    decode (ins (.d 1) [5, 9, 4, 6, 6, 0, 1, 6, 1, 0, 1]) = .instr (.ppc ⟨.selector 1, 46, 60, 16101⟩) := by decide

theorem test_decode_extract :
    decode (ins .period [6, 5, 6, 2, 5, 9, 6, 2, 9, 6, 6]) = .instr (.el ⟨.untraced, 62, 59, 62966⟩) ∧
    decode (ins .period [6, 6, 3, 9, 1, 0, 1, 8, 8, 8, 9]) = .instr (.eu ⟨.untraced, 39, 10, 18889⟩) := by decide

theorem test_decode_conditional :
    decode (ins (.d 4) [7, 0, 9, 5, 4, 3, 9, 7, 0, 3, 9]) = .instr (.te ⟨.selector 4, 95, 43, 97039⟩) ∧
    decode (ins .period [7, 1, 6, 1, 8, 8, 2, 1, 1, 6, 0]) = .instr (.tg ⟨.untraced, 61, 88, 21160⟩) ∧
    decode (ins .period [7, 2, 0, 2, 2, 6, 6, 9, 2, 3, 9]) = .instr (.tz ⟨.untraced, 2, 26, 69239⟩) ∧
    decode (ins .period [7, 3, 1, 8, 8, 8, 7, 1, 1, 9, 4]) = .instr (.tgz ⟨.untraced, 18, 88, 71194⟩) ∧
    decode (ins .period [7, 4, 9, 7, 6, 7, 3, 9, 0, 7, 1]) = .instr (.tlz ⟨.untraced, 97, 67, 39071⟩) ∧
    decode (ins .period [7, 5, 8, 9, 3, 3, 6, 7, 9, 4, 7]) = .instr (.tte ⟨.untraced, 89, 33, 67947⟩) ∧
    decode (ins (.d 8) [7, 6, 2, 1, 4, 5, 2, 9, 2, 0, 1]) = .instr (.ttg ⟨.selector 8, 21, 45, 29201⟩) ∧
    decode (ins .period [9, 5, 6, 9, 9, 9, 6, 5, 8, 8, 9]) = .instr (.tf ⟨.untraced, 69, 99, 65889⟩) := by decide

theorem test_decode_index :
    decode (ins .period [8, 0, 8, 1, 2, 8, 8, 0, 3, 7, 7]) = .instr (.bit ⟨.untraced, 81, 28, 80377⟩) ∧
    decode (ins (.d 3) [8, 1, 3, 0, 5, 1, 9, 6, 9, 7, 6]) = .instr (.bdt ⟨.selector 3, 30, 51, 96976⟩) ∧
    decode (ins .period [8, 2, 2, 5, 6, 6, 6, 4, 5, 8, 9]) = .instr (.bic ⟨.untraced, 25, 66, 64589⟩) ∧
    decode (ins .period [8, 3, 9, 3, 0, 3, 0, 3, 6, 6, 1]) = .instr (.bdc ⟨.untraced, 93, 3, 3661⟩) ∧
    decode (ins (.d 9) [8, 5, 6, 0, 3, 3, 2, 5, 3, 8, 1]) = .instr (.bi ⟨.selector 9, 60, 33, 25381⟩) ∧
    decode (ins .period [8, 6, 4, 4, 5, 7, 9, 4, 7, 8, 1]) = .instr (.bd ⟨.untraced, 44, 57, 94781⟩) := by decide

theorem test_decode_transfer :
    decode (ins .period [9, 0, 4, 6, 1, 0, 2, 8, 8, 9, 6]) = .instr (.t ⟨.untraced, 46, 10, 28896⟩) ∧
    decode (ins (.d 5) [9, 1, 2, 9, 6, 0, 2, 5, 7, 8, 2]) = .instr (.tr ⟨.selector 5, 29, 60, 25782⟩) ∧
    decode (ins .period [9, 2, 2, 6, 6, 1, 8, 1, 7, 9, 7]) = .instr (.tb ⟨.untraced, 26, 61, 81797⟩) := by decide

/-! ### One step of each instruction -/

theorem test_sk_V349 :
    (after (.sk ⟨.untraced, 55, 0, 77777⟩) (st [] [])).map (fun t => (t.pc, t.c2)) =
      some (101, 0) := by decide

theorem test_ax_V30 :
    (after (.ax ⟨.untraced, 1, 0, 1000⟩)
      (st [(1, w (.d 0) 50000000000)] [(1000, w .minus 70000000000)])).map (fun t => t.reg 1) =
      some (w .minus 20000000000) := by decide

theorem test_ax_V34 :
    (after (.ax ⟨.untraced, 1, 0, 1000⟩) (st [(1, w .period 5)] [(1000, w .minus 3)])).map (fun t => t.reg 1) =
      some (w .minus 8) := by decide

theorem test_a_V61 :
    (after (.a ⟨.untraced, 1, 0, 1000⟩)
      (st [(1, w (.d 0) 51100000000)] [(1000, w (.d 0) 49500000000)])).map (fun t => t.reg 1) =
      some (w (.d 0) 51105000000) := by decide

theorem test_a_V66 :
    (after (.a ⟨.untraced, 1, 0, 1000⟩)
      (st [(1, w (.d 0) 99900000000)] [(1000, w (.d 0) 99900000000)])).map (fun t => t.trap) =
      some (some ⟨.contingency, 42⟩) := by decide

theorem test_am_V71 :
    (after (.am ⟨.untraced, 1, 0, 1000⟩)
      (st [(1, w .minus 51300000000)] [(1000, w .minus 51100000000)])).map (fun t => t.reg 1) =
      some (w .minus 51200000000) := by decide

theorem test_am_V72 :
    (after (.am ⟨.untraced, 1, 0, 1000⟩)
      (st [(1, w (.d 0) 51300000000)] [(1000, w (.other 0) 51100000000)])).map (fun t => t.reg 1) =
      some (w (.d 0) 51400000000) := by decide

theorem test_au_V77 :
    (after (.au ⟨.untraced, 1, 0, 1000⟩)
      (st [(1, w (.d 0) 51250000000)] [(1000, w (.d 0) 51750000000)])).map (fun t => (t.reg 2, t.reg 1)) =
      some (w (.d 0) 52100000000, w (.d 0) 51250000000) := by decide

theorem test_aax_V48 :
    (after (.aax ⟨.untraced, 1, 0, 1000⟩)
      (st [(1, w .minus 50000000000), (2, w (.d 0) 0)] [(1000, w (.d 0) 20000000000), (1001, w .minus 5)])).map (fun t => (t.reg 1, t.reg 2)) =
      some (w .minus 29999999999, w .minus 99999999995) := by decide

theorem test_aax_V50 :
    (after (.aax ⟨.untraced, 1, 0, 1000⟩)
      (st [(1, w .period 1), (2, w (.other 0) 2)] [(1000, w .minus 3), (1001, w (.d 0) 4)])).map (fun t => (t.reg 1, t.reg 2)) =
      some (w .minus 4, w .minus 6) := by decide

theorem test_aa_V80 :
    (after (.aa ⟨.untraced, 1, 0, 1000⟩)
      (st [(1, w (.d 0) 51100000000), (2, w (.d 0) 0)] [(1000, w (.d 0) 50500000000), (1001, w (.d 0) 0)])).map (fun t => (t.reg 1, t.reg 2)) =
      some (w (.d 0) 51150000000, w (.d 0) 0) := by decide

theorem test_nx_V42 :
    (after (.nx ⟨.untraced, 1, 0, 1000⟩) (st [(1, w .period 5)] [(1000, w (.d 0) 3)])).map (fun t => t.reg 1) =
      some (w .minus 8) := by decide

theorem test_nx_V44 :
    (after (.nx ⟨.untraced, 1, 0, 1000⟩)
      (st [(1, w .minus 50000000000)] [(1000, w (.d 0) 50000000000)])).map (fun t => t.trap) =
      some (some ⟨.contingency, 44⟩) := by decide

theorem test_n_V75 :
    (after (.n ⟨.untraced, 1, 0, 1000⟩)
      (st [(1, w .period 51100000000)] [(1000, w (.d 0) 51100000000)])).map (fun t => t.reg 1) =
      some (w .minus 51200000000) := by decide

theorem test_n_V76 :
    (after (.n ⟨.untraced, 1, 0, 1000⟩)
      (st [(1, w (.d 0) 100000000)] [(1000, w (.d 0) 100000001)])).map (fun t => t.trap) =
      some (some ⟨.contingency, 43⟩) := by decide

theorem test_nu_V78 :
    (after (.nu ⟨.untraced, 1, 0, 1000⟩)
      (st [(1, w (.d 0) 52100000000)] [(1000, w (.d 0) 51100000000)])).map (fun t => (t.reg 2, t.reg 1)) =
      some (w (.d 0) 51900000000, w (.d 0) 52100000000) := by decide

theorem test_nnx_V51 :
    (after (.nnx ⟨.untraced, 1, 0, 1000⟩)
      (st [(1, w (.d 0) 1), (2, w (.d 0) 0)] [(1000, w (.d 0) 0), (1001, w (.d 0) 1)])).map (fun t => (t.reg 1, t.reg 2)) =
      some (w (.d 0) 0, w (.d 0) 99999999999) := by decide

theorem test_nnx_V52 :
    (after (.nnx ⟨.untraced, 1, 0, 1000⟩)
      (st [(1, w (.d 0) 0), (2, w (.d 0) 1)] [(1000, w (.d 0) 0), (1001, w (.d 0) 2)])).map (fun t => (t.reg 1, t.reg 2)) =
      some (w .minus 0, w .minus 1) := by decide

theorem test_nn_V81 :
    (after (.nn ⟨.untraced, 1, 0, 1000⟩)
      (st [(1, w (.d 0) 51150000000), (2, w (.d 0) 0)] [(1000, w (.d 0) 50500000000), (1001, w (.d 0) 0)])).map (fun t => (t.reg 1, t.reg 2)) =
      some (w (.d 0) 51100000000, w (.d 0) 0) := by decide

theorem test_nn_V82 :
    (after (.nn ⟨.untraced, 1, 0, 1000⟩)
      (st [(1, w (.d 0) 51100000000), (2, w (.d 0) 1)] [(1000, w (.d 0) 51100000000), (1001, w (.d 0) 0)])).map (fun t => (t.reg 1, t.reg 2)) =
      some (w (.d 0) 32100000000, w (.d 0) 0) := by decide

theorem test_mxr_V90 :
    (after (.mxr ⟨.untraced, 1, 0, 1000⟩)
      (st [(1, w (.d 0) 50000000000)] [(1000, w .minus 50000000000)])).map (fun t => t.reg 1) =
      some (w .minus 25000000000) := by decide

theorem test_mxr_V96 :
    (after (.mxr ⟨.untraced, 1, 0, 1000⟩)
      (st [(1, w (.d 7) 50000000000)] [(1000, w (.d 0) 50000000000)])).map (fun t => t.trap) =
      some (some ⟨.contingency, 45⟩) := by decide

theorem test_mxe_V98 :
    (after (.mxe ⟨.untraced, 1, 0, 1000⟩)
      (st [(1, w .minus 99999999999)] [(1000, w (.d 0) 99999999999)])).map (fun t => (t.reg 1, t.reg 2)) =
      some (w .minus 99999999998, w .minus 1) := by decide

theorem test_mxe_V99 :
    (after (.mxe ⟨.untraced, 1, 0, 1000⟩)
      (st [(1, w (.d 0) 12345678901)] [(1000, w .minus 10000000000)])).map (fun t => (t.reg 1, t.reg 2)) =
      some (w .minus 1234567890, w .minus 10000000000) := by decide

theorem test_mr_V100 :
    (after (.mr ⟨.untraced, 1, 0, 1000⟩)
      (st [(1, w (.d 0) 51200000000)] [(1000, w (.d 0) 51300000000)])).map (fun t => t.reg 1) =
      some (w (.d 0) 51600000000) := by decide

theorem test_m_V102 :
    (after (.m ⟨.untraced, 1, 0, 1000⟩)
      (st [(1, w (.d 0) 50333333333)] [(1000, w (.d 0) 50333333333)])).map (fun t => t.reg 1) =
      some (w (.d 0) 50111111110) := by decide

theorem test_m_V108 :
    (after (.m ⟨.untraced, 1, 0, 1000⟩)
      (st [(1, w .period 51500000000)] [(1000, w (.d 0) 51400000000)])).map (fun t => t.reg 1) =
      some (w .period 200000000) := by decide

theorem test_mu_V111 :
    (after (.mu ⟨.untraced, 1, 0, 1000⟩)
      (st [(1, w (.d 0) 51500000000)] [(1000, w .minus 51400000000)])).map (fun t => (t.reg 2, t.reg 1)) =
      some (w .minus 52200000000, w (.d 0) 51500000000) := by decide

theorem test_me_V113 :
    (after (.me ⟨.untraced, 1, 0, 1000⟩)
      (st [(1, w (.d 0) 50999999999)] [(1000, w .minus 50999999999)])).map (fun t => (t.reg 1, t.reg 2)) =
      some (w .minus 50999999998, w .minus 100) := by decide

theorem test_me_V112 :
    (after (.me ⟨.untraced, 1, 0, 1000⟩)
      (st [(1, w (.d 0) 51123456789)] [(1000, w (.d 0) 51200000000)])).map (fun t => (t.reg 1, t.reg 2)) =
      some (w (.d 0) 51246913578, w (.d 0) 0) := by decide

theorem test_mmx_V115 :
    (after (.mmx ⟨.untraced, 1, 0, 1000⟩)
      (st [(1, w (.d 0) 50000000000), (2, w (.d 0) 0)] [(1000, w (.d 0) 50000000000), (1001, w (.d 0) 0)])).map (fun t => (t.reg 1, t.reg 2)) =
      some (w (.d 0) 25000000000, w (.d 0) 0) := by decide

theorem test_mmx_V116 :
    (after (.mmx ⟨.untraced, 1, 0, 1000⟩)
      (st [(1, w (.d 0) 99999999999), (2, w (.d 0) 99999999999)] [(1000, w (.d 0) 99999999999), (1001, w (.d 0) 99999999999)])).map (fun t => (t.reg 1, t.reg 2)) =
      some (w (.d 0) 99999999999, w (.d 0) 99999999998) := by decide

theorem test_mm_V119 :
    (after (.mm ⟨.untraced, 1, 0, 1000⟩)
      (st [(1, w .minus 51123456789), (2, w (.d 0) 1234567890)] [(1000, w (.d 0) 52400000000), (1001, w (.d 0) 0)])).map (fun t => (t.reg 1, t.reg 2)) =
      some (w (.d 0) 52493827156, w (.d 0) 4938271560) := by decide

theorem test_mm_V120 :
    (after (.mm ⟨.untraced, 1, 0, 1000⟩)
      (st [(1, w (.d 0) 51200000000), (2, w .period 0)] [(1000, w (.d 0) 51300000000), (1001, w (.d 0) 0)])).map (fun t => (t.reg 1, t.reg 2)) =
      some (w .period 600000000, w .period 0) := by decide

theorem test_dx_V131 :
    (after (.dx ⟨.untraced, 1, 0, 1000⟩)
      (st [(1, w .minus 10000000000)] [(1000, w (.d 0) 30000000000)])).map (fun t => t.reg 1) =
      some (w .minus 33333333333) := by decide

theorem test_dx_V133 :
    (after (.dx ⟨.untraced, 1, 0, 1000⟩)
      (st [(1, w (.d 0) 10000000000)] [(1000, w (.d 0) 0)])).map (fun t => t.trap) =
      some (some ⟨.contingency, 44⟩) := by decide

theorem test_dxe_V136 :
    (after (.dxe ⟨.untraced, 1, 0, 1000⟩)
      (st [(1, w .minus 10000000000)] [(1000, w (.d 0) 30000000000)])).map (fun t => (t.reg 1, t.reg 2)) =
      some (w .minus 33333333333, w .minus 10000000000) := by decide

theorem test_dxe_V137 :
    (after (.dxe ⟨.untraced, 1, 0, 1000⟩)
      (st [(1, w (.d 0) 22222222222)] [(1000, w .minus 70000000000)])).map (fun t => (t.reg 1, t.reg 2)) =
      some (w .minus 31746031745, w (.d 0) 50000000000) := by decide

theorem test_dr_V141 :
    (after (.dr ⟨.untraced, 1, 0, 1000⟩)
      (st [(1, w (.d 0) 51600000000)] [(1000, w .minus 51200000000)])).map (fun t => t.reg 1) =
      some (w .minus 51300000000) := by decide

theorem test_dr_V146 :
    (after (.dr ⟨.untraced, 1, 0, 1000⟩)
      (st [(1, w (.d 0) 1100000000)] [(1000, w (.d 0) 99200000000)])).map (fun t => t.trap) =
      some (some ⟨.contingency, 43⟩) := by decide

theorem test_dur_V148 :
    (after (.dur ⟨.untraced, 1, 0, 1000⟩)
      (st [(1, w (.d 0) 51600000000)] [(1000, w (.d 0) 51200000000)])).map (fun t => (t.reg 2, t.reg 1)) =
      some (w (.d 0) 51300000000, w (.d 0) 51600000000) := by decide

theorem test_ddx_V150 :
    (after (.ddx ⟨.untraced, 1, 0, 1000⟩)
      (st [(1, w .minus 0), (2, w (.d 0) 1)] [(1000, w (.d 0) 0), (1001, w (.d 0) 3)])).map (fun t => (t.reg 1, t.reg 2)) =
      some (w .minus 33333333333, w .minus 33333333333) := by decide

theorem test_ddx_V151 :
    (after (.ddx ⟨.untraced, 1, 0, 1000⟩)
      (st [(1, w (.d 0) 50000000000), (2, w (.d 0) 0)] [(1000, w (.d 0) 50000000000), (1001, w (.d 0) 0)])).map (fun t => t.trap) =
      some (some ⟨.contingency, 44⟩) := by decide

theorem test_dd_V152 :
    (after (.dd ⟨.untraced, 1, 0, 1000⟩)
      (st [(1, w (.d 0) 51100000000), (2, w (.d 0) 0)] [(1000, w (.d 0) 51300000000), (1001, w (.d 0) 0)])).map (fun t => (t.reg 1, t.reg 2)) =
      some (w (.d 0) 50333333333, w (.d 0) 33333333333) := by decide

theorem test_dd_V154 :
    (after (.dd ⟨.untraced, 1, 0, 1000⟩)
      (st [(1, w (.d 0) 51600000000), (2, w (.d 0) 0)] [(1000, w (.d 0) 51020000000), (1001, w (.d 0) 0)])).map (fun t => t.trap) =
      some (some ⟨.contingency, 41⟩) := by decide

theorem test_dse_V156 :
    (after (.dse ⟨.untraced, 1, 0, 1000⟩)
      (st [(1, w .minus 52123456789), (2, w .minus 12345678901)] [(1000, w (.d 0) 51200000000)])).map (fun t => (t.reg 1, t.reg 2)) =
      some (w .minus 51617283945, w .minus 61728394505) := by decide

theorem test_dse_V157 :
    (after (.dse ⟨.untraced, 1, 0, 1000⟩)
      (st [(1, w (.d 0) 51100000000), (2, w (.d 0) 0)] [(1000, w (.d 0) 51300000000)])).map (fun t => (t.reg 1, t.reg 2)) =
      some (w (.d 0) 50333333333, w (.d 0) 33333333333) := by decide

theorem test_s_V160 :
    (after (.s ⟨.untraced, 3, 0, 1000⟩) (st [(3, w .minus 12345678901)] [])).map (fun t => t.load 1000) =
      some (w .minus 12345678901) := by decide

theorem test_s_V161 :
    (after (.s ⟨.untraced, 0, 0, 1000⟩) (st [] [])).map (fun t => t.load 1000) =
      some (w .period 0) := by decide

theorem test_sn_V162 :
    (after (.sn ⟨.untraced, 3, 0, 1000⟩) (st [(3, w (.d 0) 42)] [])).map (fun t => t.load 1000) =
      some (w .minus 42) := by decide

theorem test_sn_V166 :
    (after (.sn ⟨.untraced, 3, 0, 1000⟩) (st [(3, w (.other 0) 42)] [])).map (fun t => t.trap) =
      some (some ⟨.contingency, 45⟩) := by decide

theorem test_sm_V168 :
    (after (.sm ⟨.untraced, 3, 0, 1000⟩) (st [(3, w .minus 42)] [])).map (fun t => t.load 1000) =
      some (w (.d 0) 42) := by decide

theorem test_sm_V170 :
    (after (.sm ⟨.untraced, 3, 0, 1000⟩)
      (st [(3, Word.ofChars [.d 7, .other 2, .other 2, .other 2, .other 2, .other 2, .other 2, .other 2, .other 2, .other 2, .other 2, .other 2])] [])).map (fun t => t.load 1000) =
      some (Word.ofChars [.d 0, .other 2, .other 2, .other 2, .other 2, .other 2, .other 2, .other 2, .other 2, .other 2, .other 2, .other 2]) := by decide

theorem test_f_V8 :
    (after (.f ⟨.untraced, 1, 7, 10⟩)
      (st [(7, w (.d 0) 5000101000)] [(1010, w .minus 77)])).map (fun t => (t.reg 1, t.reg 7)) =
      some (w .minus 77, w (.d 0) 5000101000) := by decide

theorem test_f_V15 :
    (after (.f ⟨.untraced, 3, 0, 99907⟩) (st [(7, w .minus 55555555555)] [])).map (fun t => t.reg 3) =
      some (w .minus 55555555555) := by decide

theorem test_ss_V20 :
    (after (.ss ⟨.untraced, 3, 0, 99904⟩)
      (st [(3, w (.d 0) 11111111111), (4, w .minus 22222222222)] [])).map (fun t => (t.reg 4, t.reg 5)) =
      some (w (.d 0) 11111111111, w .minus 22222222222) := by decide

theorem test_ss_V172 :
    (after (.ss ⟨.untraced, 3, 0, 1000⟩)
      (st [(3, w (.d 0) 11111111111), (4, w .minus 22222222222)] [])).map (fun t => (t.load 1000, t.load 1001)) =
      some (w (.d 0) 11111111111, w .minus 22222222222) := by decide

theorem test_ssn_V173 :
    (after (.ssn ⟨.untraced, 3, 0, 1000⟩)
      (st [(3, w (.d 0) 11111111111), (4, w .minus 22222222222)] [])).map (fun t => (t.load 1000, t.load 1001)) =
      some (w .minus 11111111111, w (.d 0) 22222222222) := by decide +kernel

theorem test_ssn_V174 :
    (after (.ssn ⟨.untraced, 3, 0, 1000⟩)
      (st [(3, w .period 11111111111), (4, w (.d 4) 22222222222)] [])).map (fun t => (t.load 1000, t.trap)) =
      some (w .period 11111111111, some ⟨.contingency, 45⟩) := by decide +kernel

theorem test_ssm_V175 :
    (after (.ssm ⟨.untraced, 3, 0, 1000⟩)
      (st [(3, w .period 11111111111), (4, w .minus 22222222222)] [])).map (fun t => (t.load 1000, t.load 1001)) =
      some (w (.d 0) 11111111111, w (.d 0) 22222222222) := by decide

theorem test_ff_V176 :
    (after (.ff ⟨.untraced, 3, 0, 1000⟩)
      (st [] [(1000, w .minus 11111111111), (1001, w .period 22222222222)])).map (fun t => (t.reg 3, t.reg 4)) =
      some (w .minus 11111111111, w .period 22222222222) := by decide

theorem test_cx_S3 :
    (after (.cx ⟨.untraced, 1, 0, 57⟩) (st [(1, w .minus 54123456789)] [])).map (fun t => t.reg 1) =
      some (w .minus 12345678) := by decide

theorem test_cx_V293 :
    (after (.cx ⟨.untraced, 1, 0, 50⟩) (st [(1, w (.d 0) 48987654321)] [])).map (fun t => t.reg 1) =
      some (w (.d 0) 987654321) := by decide

theorem test_c_S2 :
    (after (.c ⟨.untraced, 1, 0, 48⟩) (st [(1, w .minus 1987654320)] [])).map (fun t => t.reg 1) =
      some (w .minus 47198765432) := by decide

theorem test_c_V300 :
    (after (.c ⟨.untraced, 1, 0, 50⟩) (st [(1, w .period 0)] [])).map (fun t => (t.reg 1, t.trap)) =
      some (w .period 39000000000, some ⟨.contingency, 40⟩) := by decide

theorem test_pr_V250 :
    (after (.pr ⟨.untraced, 1, 0, 3⟩) (st [(1, w .minus 12345678901)] [])).map (fun t => t.reg 1) =
      some (w .minus 12345678) := by decide

theorem test_pr_V252 :
    (after (.pr ⟨.untraced, 1, 0, 11⟩) (st [(1, w .minus 12345678901)] [])).map (fun t => t.reg 1) =
      some (w .minus 0) := by decide

theorem test_pl_V255 :
    (after (.pl ⟨.untraced, 1, 0, 3⟩) (st [(1, w (.d 0) 12345678)] [])).map (fun t => t.reg 1) =
      some (w (.d 0) 12345678000) := by decide

theorem test_pl_V257 :
    (after (.pl ⟨.untraced, 1, 0, 11⟩) (st [(1, w .period 12345678901)] [])).map (fun t => t.reg 1) =
      some (w .period 0) := by decide

theorem test_ccx_V303 :
    (after (.ccx ⟨.untraced, 1, 0, 55⟩)
      (st [(1, w (.d 0) 52123456789), (2, w (.d 0) 1234567890)] [])).map (fun t => (t.reg 1, t.reg 2)) =
      some (w (.d 0) 12345678, w (.d 0) 90123456789) := by decide

theorem test_ccx_V304 :
    (after (.ccx ⟨.untraced, 1, 0, 50⟩)
      (st [(1, w .minus 50123456789), (2, w (.d 0) 12345678901)] [])).map (fun t => (t.reg 1, t.reg 2)) =
      some (w .minus 12345678912, w (.d 0) 34567890100) := by decide

theorem test_cc_V307 :
    (after (.cc ⟨.untraced, 1, 0, 50⟩)
      (st [(1, w (.d 0) 0), (2, w (.d 0) 12345678901)] [])).map (fun t => (t.reg 1, t.reg 2)) =
      some (w (.d 0) 39123456789, w (.d 0) 1000000000) := by decide +kernel

theorem test_cc_V308 :
    (after (.cc ⟨.untraced, 1, 0, 50⟩)
      (st [(1, w .minus 12345678901), (2, w .period 23456789012)] [])).map (fun t => (t.reg 1, t.reg 2)) =
      some (w .minus 50123456789, w .period 1234567890) := by decide +kernel

theorem test_ppr_V259 :
    (after (.ppr ⟨.untraced, 1, 0, 4⟩)
      (st [(1, w (.d 0) 12345678901), (2, w .minus 23456789012)] [])).map (fun t => (t.reg 1, t.reg 2)) =
      some (w (.d 0) 1234567, w .minus 89012345678) := by decide

theorem test_ppr_V261 :
    (after (.ppr ⟨.untraced, 1, 0, 15⟩)
      (st [(1, w (.d 0) 12345678901), (2, w .minus 23456789012)] [])).map (fun t => (t.reg 1, t.reg 2)) =
      some (w (.d 0) 0, w .minus 1234567) := by decide

theorem test_ppl_V263 :
    (after (.ppl ⟨.untraced, 1, 0, 4⟩)
      (st [(1, w (.d 0) 12345678901), (2, w .minus 23456789012)] [])).map (fun t => (t.reg 1, t.reg 2)) =
      some (w (.d 0) 56789012345, w .minus 67890120000) := by decide

theorem test_ppl_V265 :
    (after (.ppl ⟨.untraced, 1, 0, 15⟩)
      (st [(1, w (.d 0) 12345678901), (2, w .minus 23456789012)] [])).map (fun t => (t.reg 1, t.reg 2)) =
      some (w (.d 0) 67890120000, w .minus 0) := by decide

theorem test_ppc_V268 :
    (after (.ppc ⟨.untraced, 1, 0, 13⟩)
      (st [(1, w .minus 12345678901), (2, w (.d 0) 23456789012)] [])).map (fun t => (t.reg 1, t.reg 2)) =
      some (Word.ofChars [.d 2, .d 3, .d 4, .d 5, .d 6, .d 7, .d 8, .d 9, .d 0, .d 1, .d 2, .minus], w (.d 1) 23456789010) := by decide

theorem test_ppc_V270 :
    (after (.ppc ⟨.untraced, 1, 0, 25⟩)
      (st [(1, w .minus 12345678901), (2, w (.d 0) 23456789012)] [])).map (fun t => (t.reg 1, t.reg 2)) =
      some (w (.d 1) 23456789010, Word.ofChars [.d 2, .d 3, .d 4, .d 5, .d 6, .d 7, .d 8, .d 9, .d 0, .d 1, .d 2, .minus]) := by decide

theorem test_eop_V177 :
    (after (.eop ⟨.untraced, 3, 0, 1000⟩)
      (st [(3, w (.d 0) 11223344444)] [(1000, w .period 93556677777)])).map (fun t => t.reg 3) =
      some (w .period 93223344444) := by decide

theorem test_ea_V178 :
    (after (.ea ⟨.untraced, 3, 0, 1000⟩)
      (st [(3, w (.d 0) 11223344444)] [(1000, w .period 93556677777)])).map (fun t => t.reg 3) =
      some (w (.d 0) 11553344444) := by decide

theorem test_eb_V179 :
    (after (.eb ⟨.untraced, 3, 0, 1000⟩)
      (st [(3, w (.d 0) 11223344444)] [(1000, w .period 93556677777)])).map (fun t => t.reg 3) =
      some (w (.d 0) 11226644444) := by decide

theorem test_eab_V180 :
    (after (.eab ⟨.untraced, 3, 0, 1000⟩)
      (st [(3, w (.d 0) 11223344444)] [(1000, w .period 93556677777)])).map (fun t => t.reg 3) =
      some (w (.d 0) 11556644444) := by decide

theorem test_em_V181 :
    (after (.em ⟨.untraced, 3, 0, 1000⟩)
      (st [(3, w (.d 0) 11223344444)] [(1000, w .period 93556677777)])).map (fun t => t.reg 3) =
      some (w (.d 0) 11223377777) := by decide

theorem test_el_S1 :
    (after (.el ⟨.untraced, 2, 0, 1000⟩)
      (st [(2, Word.ofChars [.other 0, .other 0, .other 0, .other 0, .other 0, .other 0, .other 0, .other 0, .other 0, .other 0, .other 0, .other 0]), (1, Word.ofChars [.other 1, .other 1, .other 1, .other 1, .other 1, .other 1, .other 1, .other 1, .other 1, .other 1, .other 1, .other 1])] [(1000, w .minus 11023111456)])).map (fun t => t.reg 2) =
      some (Word.ofChars [.other 1, .other 1, .other 1, .other 0, .other 0, .other 0, .other 1, .other 1, .other 1, .other 0, .other 0, .other 0]) := by decide

theorem test_el_V280 :
    (after (.el ⟨.untraced, 2, 0, 1000⟩)
      (st [(1, w .minus 98765432109), (2, w (.d 0) 12345678901), (3, w .period 55555555555)] [(1000, w .minus 11023111456)])).map (fun t => (t.reg 2, t.reg 1)) =
      some (w .minus 98345432901, w .minus 98765432109) := by decide

theorem test_eu_V285 :
    (after (.eu ⟨.untraced, 2, 0, 1000⟩)
      (st [(1, w .minus 98765432109), (2, w (.d 0) 12345678901), (3, w .period 55555555555)] [(1000, w (.d 1) 1)])).map (fun t => (t.reg 2, t.reg 1)) =
      some (w .period 12345678905, w .minus 98765432109) := by decide

theorem test_te_V191 :
    (after (.te ⟨.untraced, 4, 0, 200⟩) (st [(4, w .period 5), (5, w (.d 0) 5)] [])).map (fun t => (t.pc, t.c2)) =
      some (200, 101) := by decide

theorem test_te_V194 :
    (after (.te ⟨.untraced, 4, 0, 200⟩)
      (st [(4, w (.other 0) 5), (5, w (.d 0) 5)] [])).map (fun t => (t.trap, t.pc, t.c2)) =
      some (some ⟨.contingency, 45⟩, 101, 200) := by decide

theorem test_tg_V197 :
    (after (.tg ⟨.untraced, 4, 0, 200⟩) (st [(4, w .minus 1), (5, w .minus 2)] [])).map (fun t => (t.pc, t.c2)) =
      some (200, 101) := by decide

theorem test_tg_V199 :
    (after (.tg ⟨.untraced, 4, 0, 200⟩)
      (st [(4, w (.d 1) 0), (5, w (.d 0) 99999999999)] [])).map (fun t => (t.pc, t.c2)) =
      some (200, 101) := by decide

theorem test_tz_V204 :
    (after (.tz ⟨.untraced, 4, 0, 200⟩) (st [(4, w (.d 0) 41000000000)] [])).map (fun t => (t.pc, t.c2)) =
      some (101, 200) := by decide

theorem test_tz_V205 :
    (after (.tz ⟨.untraced, 4, 0, 200⟩) (st [(4, w (.d 3) 0)] [])).map (fun t => (t.trap, t.pc, t.c2)) =
      some (some ⟨.contingency, 45⟩, 101, 200) := by decide

theorem test_tgz_V211 :
    (after (.tgz ⟨.untraced, 4, 0, 200⟩) (st [(4, w (.d 3) 0)] [])).map (fun t => (t.pc, t.c2)) =
      some (200, 101) := by decide

theorem test_tgz_V214 :
    (after (.tgz ⟨.untraced, 0, 0, 200⟩) (st [] [])).map (fun t => (t.pc, t.c2)) =
      some (101, 200) := by decide

theorem test_tlz_V215 :
    (after (.tlz ⟨.untraced, 4, 0, 200⟩) (st [(4, w .minus 0)] [])).map (fun t => (t.pc, t.c2)) =
      some (200, 101) := by decide

theorem test_tlz_V217 :
    (after (.tlz ⟨.untraced, 4, 0, 200⟩) (st [(4, w (.other 0) 1)] [])).map (fun t => (t.trap, t.pc, t.c2)) =
      some (some ⟨.contingency, 45⟩, 101, 200) := by decide

theorem test_tte_V219 :
    (after (.tte ⟨.untraced, 4, 0, 200⟩)
      (st [(4, w .period 11111111111), (5, w .minus 22222222222), (6, w (.d 0) 11111111111), (7, w .minus 22222222222)] [])).map (fun t => (t.pc, t.c2)) =
      some (200, 101) := by decide +kernel

theorem test_tte_V220 :
    (after (.tte ⟨.untraced, 4, 0, 200⟩)
      (st [(4, w .minus 0), (5, w (.d 0) 0), (6, w (.d 0) 0), (7, w (.d 0) 0)] [])).map (fun t => (t.pc, t.c2)) =
      some (101, 200) := by decide +kernel

theorem test_ttg_V224 :
    (after (.ttg ⟨.untraced, 4, 0, 200⟩)
      (st [(4, w (.d 0) 6), (5, w .minus 9), (6, w (.d 0) 5), (7, w (.d 0) 9)] [])).map (fun t => (t.pc, t.c2)) =
      some (200, 101) := by decide +kernel

theorem test_ttg_V226 :
    (after (.ttg ⟨.untraced, 4, 0, 200⟩)
      (st [(4, w .minus 5), (5, w .minus 2), (6, w .minus 5), (7, w .minus 1)] [])).map (fun t => (t.pc, t.c2)) =
      some (101, 200) := by decide +kernel

theorem test_bit_V322 :
    (after (.bit ⟨.untraced, 5, 0, 200⟩) (st [(5, w (.d 0) 201000)] [])).map (fun t => (t.reg 5, t.pc, t.c2)) =
      some (w (.d 9) 99000201002, 200, 101) := by decide

theorem test_bit_V335 :
    (after (.bit ⟨.untraced, 5, 5, 200⟩) (st [(5, w (.d 0) 3000200010)] [])).map (fun t => (t.reg 5, t.pc, t.c2)) =
      some (w (.d 0) 2000200012, 210, 101) := by decide

theorem test_bdt_V324 :
    (after (.bdt ⟨.untraced, 5, 0, 200⟩) (st [(5, w (.d 0) 3000201000)] [])).map (fun t => (t.reg 5, t.pc, t.c2)) =
      some (w (.d 0) 2000200998, 200, 101) := by decide

theorem test_bdt_V325 :
    (after (.bdt ⟨.untraced, 5, 0, 200⟩) (st [(5, w (.d 0) 1000201000)] [])).map (fun t => (t.reg 5, t.pc, t.c2)) =
      some (w (.d 0) 200998, 101, 200) := by decide

theorem test_bic_V327 :
    (after (.bic ⟨.untraced, 5, 0, 200⟩) (st [(5, w (.d 0) 3000201000)] [])).map (fun t => (t.reg 5, t.pc, t.c2)) =
      some (w (.d 0) 2000201002, 101, 200) := by decide

theorem test_bic_V328 :
    (after (.bic ⟨.untraced, 5, 0, 200⟩) (st [(5, w (.d 0) 1000201000)] [])).map (fun t => (t.reg 5, t.pc, t.c2)) =
      some (w (.d 0) 201002, 200, 101) := by decide

theorem test_bdc_V329 :
    (after (.bdc ⟨.untraced, 5, 0, 200⟩) (st [(5, w (.d 0) 2001000100)] [])).map (fun t => (t.reg 5, t.pc, t.c2)) =
      some (w (.d 0) 1001000090, 101, 200) := by decide

theorem test_bdc_V330 :
    (after (.bdc ⟨.untraced, 5, 0, 200⟩) (st [(5, w (.d 0) 1001000100)] [])).map (fun t => (t.reg 5, t.pc, t.c2)) =
      some (w (.d 0) 1000090, 200, 101) := by decide

theorem test_bi_V331 :
    (after (.bi ⟨.untraced, 5, 0, 200⟩) (st [(5, w (.d 0) 7001000100)] [])).map (fun t => (t.reg 5, t.pc, t.c2)) =
      some (w (.d 0) 7001000110, 101, 0) := by decide

theorem test_bd_V332 :
    (after (.bd ⟨.untraced, 5, 0, 200⟩) (st [(5, w (.d 0) 7001000100)] [])).map (fun t => (t.reg 5, t.pc, t.c2)) =
      some (w (.d 0) 7001000090, 101, 0) := by decide

theorem test_t_V241 :
    (after (.t ⟨.untraced, 0, 7, 1⟩) (st [(7, w (.d 0) 101)] [])).map (fun t => (t.pc, t.c2)) =
      some (102, 101) := by decide

theorem test_tr_V242 :
    (after (.tr ⟨.untraced, 0, 0, 600⟩) (st [] [])).map (fun t => (t.load 600, t.pc, t.c2)) =
      some (w (.d 9) 90000000101, 601, 101) := by decide

theorem test_tb_V243 :
    (after (.tb ⟨.untraced, 7, 0, 700⟩) (st [(7, w (.d 0) 5000199999)] [])).map (fun t => (t.reg 7, t.pc, t.c2)) =
      some (w (.d 0) 5000100100, 700, 101) := by decide

theorem test_slj_V244 :
    (after (.slj ⟨.untraced, 0, 0, 520⟩) ({ st [] [] with c2 := 101 })).map (fun t => (t.load 520, t.pc, t.c2)) =
      some (w (.d 9) 90000000101, 101, 101) := by decide

theorem test_slj_V245 :
    (after (.slj ⟨.untraced, 0, 0, 99907⟩)
      ({ st [(7, w .minus 98765432109)] [] with c2 := 101 })).map (fun t => (t.reg 7, t.pc, t.c2)) =
      some (w (.d 0) 101, 101, 101) := by decide

theorem test_tf_V229 :
    (after (.tf ⟨.untraced, 3, 0, 200⟩) ((st [] []).putFlags [3])).map (fun t => (t.pc, t.c2)) =
      some (200, 101) := by decide

theorem test_tf_V230 :
    (after (.tf ⟨.untraced, 3, 0, 200⟩) (st [] [])).map (fun t => (t.pc, t.c2)) =
      some (101, 200) := by decide

theorem test_rf_V354 :
    (after (.rf ⟨.untraced, 55, 0, 0⟩) ((st [] []).putFlags [55, 75, 80, 98])).map (fun t => (flagsOf t, t.pc)) =
      some ([], 101) := by decide +kernel

theorem test_rf_V355 :
    (after (.rf ⟨.untraced, 55, 0, 0⟩) ((st [] []).putFlags [55, 56, 75, 98])).map (fun t => (flagsOf t, t.pc)) =
      some ([56, 75, 98], 101) := by decide +kernel

theorem test_sf_V350 :
    (after (.sf ⟨.untraced, 3, 0, 0⟩) (st [] [])).map (fun t => (flagsOf t, t.pc)) =
      some ([3], 101) := by decide +kernel

theorem test_h_V357 :
    (after (.h ⟨.untraced, 0, 0, 0⟩) (st [] [])).map (fun t => t.pc) =
      some (100) := by decide

/-- V342, V340: both fetches with Interlock set; V344, V346: both stores with Interlock reset. -/
theorem test_display_V342 :
    (after (.fvk ⟨.untraced, 4, 0, 300⟩) { st [] [] with interlock := true, connect := true, vd12 := w .period 55555555555 }).map
      (fun t => (t.reg 4, t.interlock || t.connect)) = some (w .period 55555555555, false) := by decide

theorem test_display_V340 :
    (after (.fv ⟨.untraced, 4, 0, 300⟩)
      { st [] [] with interlock := true, vd5 := Five.ofChars [.d 0, .d 0, .d 1, .d 2, .d 3] }).map
      (fun t => (slice (t.reg 4) 5 1, t.pc, t.c2)) = some ([.d 0, .d 0, .d 1, .d 2, .d 3], 101, 300) := by decide

theorem test_display_V344 :
    (after (.sv ⟨.untraced, 4, 0, 300⟩) (st [(4, w .minus 12345678901)] [])).map (fun t => (t.vd5, t.pc, t.c2)) =
      some (Five.ofChars [.d 7, .d 8, .d 9, .d 0, .d 1], 101, 300) := by decide

theorem test_display_V346 :
    (after (.svk ⟨.untraced, 4, 0, 300⟩) (st [(4, w .minus 12345678901)] [])).map (fun t => (t.vd12, t.pc)) =
      some (w .minus 12345678901, 101) := by decide

/-! ### The well-formedness checks refuse -/

theorem test_selector_zero : (Instr.ax ⟨.selector 0, 1, 0, 0⟩).wellFormed = false := by decide
theorem test_selector_ten : (Instr.ax ⟨.selector 10, 1, 0, 0⟩).wellFormed = false := by decide
theorem test_a_digits : (Instr.sk ⟨.untraced, 100, 0, 0⟩).wellFormed = false := by decide
theorem test_b_digits : (Instr.t ⟨.untraced, 0, 100, 0⟩).wellFormed = false := by decide
theorem test_m_digits : (Instr.f ⟨.selector 9, 99, 99, 100000⟩).wellFormed = false := by decide
theorem test_wellFormed : (Instr.f ⟨.selector 9, 99, 99, 99999⟩).wellFormed = true := by decide

/-! ### Words that are no instruction (spec/95, V1 to V7), and the step -/

theorem test_zero_T : decode (ins (.d 0) [9, 0, 0, 0, 0, 0, 0, 0, 5, 0, 0]) = .illegalT := by decide
theorem test_minus_T : decode (ins .minus [9, 0, 0, 0, 0, 0, 0, 0, 5, 0, 0]) = .illegalT := by decide
theorem test_ignore_T : decode (ins .ignore [9, 0, 0, 0, 0, 0, 0, 0, 5, 0, 0]) = .indirect := by decide
theorem test_unassigned : decode (ins .period [0, 7, 0, 0, 0, 0, 0, 0, 0, 0, 0]) = .unassigned 7 := by decide
theorem test_non_numeric : decode { ins .period [9, 0, 0, 0, 0, 0, 0, 0, 5, 0, 0] with c5 := .other 0 } = .nonNumeric := by decide

/-- A state whose next word is this one. -/
def at100 (x : Word) : State := st [] [(100, x)]

/-- What a step stops with, if it stops. -/
def stopOf (s : State) : Option Stop :=
  match step s with
  | .next _ => none
  | .fault r => some (.fault r)
  | .refused r => some (.refused r)

/-- The state a step goes on to. -/
def stepped (s : State) : Option State :=
  match step s with
  | .next t => some t
  | .fault _ => none
  | .refused _ => none

/-- V1: an illegal T-digit. -/
theorem test_illegal_T :
    (stepped (at100 (ins (.d 0) [9, 0, 0, 0, 0, 0, 0, 0, 5, 0, 0]))).map (fun t => (t.flag 49, t.flag 98, t.trap, t.pc)) =
      some (true, true, some ⟨.error, 49⟩, 100) := by decide

/-- V5: a selector whose flip-flops are reset runs as a period does. -/
theorem test_selector_runs :
    (stepped (at100 (ins (.d 9) [9, 0, 0, 0, 0, 0, 0, 0, 5, 0, 0]))).map (fun t => (t.pc, t.c2)) = some (500, 101) := by decide

/-- V11: instructions are fetched from fast registers. -/
theorem test_fetch_from_register :
    (stepped { st [(1, ins .period [4, 3, 0, 5, 0, 0, 9, 9, 9, 0, 0])] [] with pc := 99901 }).map (fun t => (t.reg 5, t.pc)) =
      some (absoluteZero, 99902) := by decide

/-- `withFetchWord` places an instruction where the next step fetches it: `.90 00 00 00520`, four bits a character. -/
theorem test_withFetchWord :
    (stepped (State.reset.withFetchWord 48 0xB90000000520)).map (fun t => (t.pc, t.c2)) = some (520, 1) := by decide

/-- `decodeTableWord` on the same word. -/
theorem test_decodeTableWord : decodeTableWord 48 0xB90000000520 = some (.t ⟨.untraced, 0, 0, 520⟩) := by decide

/-! ### Storage -/

theorem test_write_read : (Memory.write [(5, w .minus 1)] 3 (w .period 2)) = [(3, w .period 2), (5, w .minus 1)] := by decide
theorem test_write_blank : (Memory.write [(3, w .period 2), (5, w .minus 1)] 3 zeroWord) = [(5, w .minus 1)] := by decide
theorem test_wf_order : Memory.wf [(5, w .minus 1), (3, w .period 2)] = false := by decide
theorem test_wf_blank : Memory.wf [(5, zeroWord)] = false := by decide

/-! ### Results the spec does not state, open functions, and PREFETCH -/

/-- V39, V323, V326, V334: the step refuses; in the other reading it goes on. -/
theorem test_unstated_results :
    let x := ins .period [0, 1, 0, 3, 0, 0, 0, 1, 0, 0, 0]
    let v39 := st [(3, w (.d 3) 5)] [(100, x), (1000, w (.d 0) 3)]
    let v323 := st [(5, w (.d 0) 02000299999)] [(100, ins .period [8, 0, 0, 5, 0, 0, 0, 0, 2, 0, 0])]
    let v326 := st [(5, w (.d 0) 03000200001)] [(100, ins .period [8, 1, 0, 5, 0, 0, 0, 0, 2, 0, 0])]
    let v334 := st [(5, w .minus 07001000100)] [(100, ins .period [8, 5, 0, 5, 0, 0, 0, 0, 2, 0, 0])]
    stopOf v39 = some (.refused (.unstated 38)) ∧ stopOf v323 = some (.refused (.unstated 27)) ∧
      stopOf v326 = some (.refused (.unstated 27)) ∧ stopOf v334 = some (.refused (.unstated 28)) ∧
      stopOf (running v39) = none ∧ stopOf (running v323) = none ∧ stopOf (running v326) = none ∧
      stopOf (running v334) = none := by decide +kernel

/-- V9, V16: an effective address of 100000, and an address that does not exist. -/
theorem test_refused_addresses :
    stopOf (st [(7, w (.d 0) 99999)] [(100, ins .period [9, 0, 0, 0, 0, 7, 0, 0, 0, 0, 1])]) = some (.refused (.unstated 9)) ∧
    stopOf (st [] [(100, ins .period [4, 3, 0, 3, 0, 0, 9, 8, 0, 0, 0])]) = some (.refused (.unmapped 98000)) := by
  decide +kernel

/-- R301: a period compares as a zero, against a minus zero too. R204: Round is a function of the rational number. -/
theorem test_open_functions :
    cmpWords (w .minus 0) (w .period 0) = cmpWords (w .minus 0) (w (.d 0) 0) ∧
      cmpWords (w .period 0) (w .minus 0) = cmpWords (w (.d 0) 0) (w .minus 0) ∧ roundDiv 2 3 = roundDiv 4 6 :=
  ⟨rfl, rfl, rfl⟩

/-- D40, D44, D49 (V110, V295) and D30 (V10): a non-numeric magnitude, a non-normalized factor, an exponent above the scale
factor, and a C with no next address. -/
theorem test_unstated_operands :
    let run := fun (l : List (Fin 10)) (a m : Word) => stopOf (st [(1, a)] [(100, ins .period l), (1000, m)])
    run [0, 1, 0, 1, 0, 0, 0, 1, 0, 0, 0] (w (.d 0) 1) { w (.d 0) 1 with c3 := .minus } = some (.refused (.unstated 40)) ∧
      run [2, 3, 0, 1, 0, 0, 0, 1, 0, 0, 0] (w (.d 0) 51000000001) (w (.d 0) 51100000000) =
        some (.refused (.unstated 44)) ∧
      run [5, 0, 0, 1, 0, 0, 0, 0, 0, 5, 0] (w (.d 0) 51100000000) (w (.d 0) 0) = some (.refused (.unstated 49)) ∧
      run [0, 1, 0, 1, 0, 0, 0, 1, 0, 0, 0] (w (.d 0) 1) (w (.d 0) 1) = none ∧
      stopOf { st [] [(97499, ins .period [0, 0, 0, 0, 0, 0, 0, 0, 0, 0, 0])] with pc := 97499 } =
        some (.refused (.unstated 30)) := by decide +kernel

/-- With PREFETCH = 1 the instruction just stored is not fetched; with PREFETCH = 0 it is. With Interlock reset 09 writes no
register, and the word in it is fetched. -/
theorem test_prefetch :
    let s := st [(1, ins .period [0, 0, 0, 0, 0, 0, 0, 0, 0, 0, 0])] [(100, ins .period [4, 0, 0, 1, 0, 0, 0, 0, 1, 0, 1])]
    let p := { s with inst := { s.inst with prefetch := 1 } }
    let f := { st [(1, ins .period [0, 0, 0, 0, 0, 0, 0, 0, 0, 0, 0])] [(100, ins .period [0, 9, 0, 1, 0, 0, 9, 9, 9, 0, 1])] with
      inst := { State.reset.inst with prefetch := 1 } }
    (stepped p).bind stopOf = some (.refused (.prefetched 101)) ∧ (stepped s).bind stopOf = none ∧
      (stepped s).map (fun t => t.written) = some [] ∧
      (stepped f).map (fun t => (t.written, stopOf t)) = some ([[]], none) := by decide +kernel

/-! ### The hypotheses of the statements are met -/

/-- An untraced instruction's fields with B = 00. -/
def o (a m : Nat) : Fields := ⟨.untraced, a, 0, m⟩

/-- One register in play, and one core word at 01000. -/
def sAM (a m : Word) : State := st [(1, a)] [(1000, m)]

/-- A pair in registers 1, 2 and a pair at 01000, 01001. -/
def sPP (a b m n : Word) : State := st [(1, a), (2, b)] [(1000, m), (1001, n)]

theorem wit_ResetState : State.reset.hasReg 1 = true ∧ State.reset.hasReg 99 = true ∧
    region State.reset.inst 97499 = .core ∧ region State.reset.inst 97500 = .unmapped := by decide

theorem wit_DecodeOfEncode : (Instr.h ⟨.selector 9, 99, 99, 99999⟩).wellFormed = true ∧
    (Instr.sk ⟨.untraced, 0, 0, 0⟩).wellFormed = true := by decide

theorem wit_EncodeOfDecode :
    decode (ins (.d 9) [9, 9, 9, 9, 9, 9, 9, 9, 9, 9, 9]) = .instr (.h ⟨.selector 9, 99, 99, 99999⟩) := by decide

/-- Both at a period and at a selector whose flip-flops are reset, in core and in a fast register. -/
theorem wit_StepRunsInstruction :
    (∃ (s : State) (i : Instr), s.schedule = [] ∧ s.stopped = false ∧ s.trap = none ∧ prefetched s = false ∧ region s.inst s.pc ≠ .unmapped ∧ s.pc ≠ 99900 ∧
      decode (s.load s.pc) = .instr i ∧ i.fields.t = .selector 9 ∧ s.flag 20 = false ∧ s.flag 29 = false ∧ s.pc = 97499) ∧
    (∃ (s : State) (i : Instr), s.schedule = [] ∧ s.stopped = false ∧ s.trap = none ∧ prefetched s = false ∧ region s.inst s.pc ≠ .unmapped ∧ s.pc ≠ 99900 ∧
      decode (s.load s.pc) = .instr i ∧ i.fields.t = .untraced ∧ s.pc = 99999) :=
  ⟨⟨{ st [] [(97499, ins (.d 9) [0, 0, 0, 0, 0, 0, 0, 0, 0, 0, 0])] with pc := 97499 }, .sk ⟨.selector 9, 0, 0, 0⟩,
      by decide +kernel⟩,
    ⟨{ st [(99, ins .period [0, 0, 0, 0, 0, 0, 0, 0, 0, 0, 0])] [] with pc := 99999 }, .sk ⟨.untraced, 0, 0, 0⟩,
      by decide +kernel⟩⟩

/-- One state for each decision, at the edge of its range where it has one, and beside it one that the spec does not refuse. -/
theorem wit_UnstatedResults :
    (let q := st [(7, w (.d 0) 1), (8, { w (.d 0) 1 with c5 := .minus })] [];
      unstated (.sk ⟨.untraced, 0, 8, 0⟩) q = some 28 ∧ unstated (.sk ⟨.untraced, 0, 7, 99999⟩) q = some 9 ∧
      unstated (.sk ⟨.untraced, 0, 7, 99998⟩) q = none ∧
      unstated (.sk (o 0 0)) { q with pc := 97499 } = some 30 ∧ unstated (.sk (o 0 0)) { q with pc := 97498 } = none ∧
      unstated (.tr (o 0 99999)) q = some 30 ∧ unstated (.h (o 0 0)) { q with pc := 97499 } = none) ∧
    (let b := { w (.d 0) 1 with c11 := .minus };
      unstated (.ax (o 1 1000)) (sAM (w (.d 1) 5) (w (.d 0) 5)) = some 38 ∧
      unstated (.nx (o 1 1000)) (sAM (w (.d 1) 5) (w (.d 9) 5)) = none ∧
      unstated (.ax (o 1 1000)) (sAM (w (.d 0) 5) b) = some 40 ∧
      unstated (.tz (o 1 1000)) (sAM b (w (.d 0) 0)) = some 40 ∧
      unstated (.tz (o 1 1000)) (sAM { b with c12 := .d 3 } (w (.d 0) 0)) = none) ∧
    (let f := fun a m => sAM (w (.d 0) a) (w (.d 0) m);
      unstated (.m (o 1 1000)) (f 50099999999 50100000000) = some 44 ∧
      unstated (.m (o 1 1000)) (f 50100000000 50100000000) = none ∧
      unstated (.dr (o 1 1000)) (f 50099999999 50100000000) = some 44 ∧
      unstated (.dr (o 1 1000)) (f 50099999999 50099999999) = none ∧
      unstated (.dr (o 1 1000)) (sAM absoluteZero (w (.d 0) 50100000000)) = none ∧
      unstated (.cx (o 1 50)) (f 51100000000 0) = some 49 ∧ unstated (.cx (o 1 51)) (f 51100000000 0) = none) ∧
    (let x := fun d k => { w (.d 0) k with c12 := .d 0, c11 := .d 0, c10 := .d 0, c9 := .d 0, c8 := .d 0, c7 := .d 0, c6 := d };
      unstated (.bi (o 1 0)) (sAM (x (.d 1) 99999) zeroWord) = some 27 ∧
      unstated (.bi (o 1 0)) (sAM (x (.d 1) 99998) zeroWord) = none ∧
      unstated (.bd (o 1 0)) (sAM (x (.d 1) 0) zeroWord) = some 27 ∧
      unstated (.bd (o 1 0)) (sAM (x (.d 1) 1) zeroWord) = none ∧
      unstated (.bd (o 1 0)) (sAM (x .minus 5) zeroWord) = some 28) := by decide +kernel

theorem wit_WordsThatAreNoInstruction :
    stopOf (at100 (ins .ignore [9, 0, 0, 0, 0, 0, 0, 0, 5, 0, 0])) = some (.refused .indirectAddressing) ∧
    stopOf ((at100 (ins (.d 1) [9, 0, 0, 0, 0, 0, 0, 0, 5, 0, 0])).putFlags [21]) = some (.refused (.tracingMode 1)) ∧
    stopOf ((at100 (ins (.d 9) [9, 0, 0, 0, 0, 0, 0, 0, 5, 0, 0])).putFlags [20]) = some (.refused (.tracingMode 9)) ∧
    stopOf (at100 { ins .period [9, 0, 0, 0, 0, 0, 0, 0, 5, 0, 0] with c1 := .minus }) = some (.refused .nonNumericField) ∧
    stopOf (at100 { ins (.d 1) [9, 0, 0, 0, 0, 0, 0, 0, 5, 0, 0] with c11 := .other 3 }) = some (.refused .nonNumericField) ∧
    stopOf (at100 (ins .period [9, 8, 0, 0, 0, 0, 0, 0, 0, 0, 0])) = some (.fault (.illegalInstruction 98)) ∧
    stopOf (at100 (ins (.d 9) [0, 7, 0, 0, 0, 0, 0, 0, 0, 0, 0])) = some (.fault (.illegalInstruction 7)) ∧
    stopOf { st [] [] with pc := 97500 } = some (.refused (.unmapped 97500)) ∧
    stopOf { st [] [] with pc := 99899 } = some (.refused (.unmapped 99899)) ∧
    stopOf { st [] [] with pc := 99900 } = some (.refused .constantFetch) ∧
    stopOf { st [] [] with inst := ⟨99, 97500, 1, true⟩, written := [[100]] } = some (.refused (.prefetched 100)) ∧
    prefetched { st [] [] with inst := ⟨99, 97500, 1, true⟩, written := [[101]] } = false ∧
    prefetched { st [] [] with inst := ⟨99, 97500, 1, true⟩, written := [[], [100]] } = false := by
  decide +kernel

theorem wit_untracedT : untracedT (st [] []) .period ∧ untracedT (st [] []) (.d 1) ∧ untracedT (st [] []) (.d 9) :=
  ⟨.inl rfl, .inr ⟨1, by decide +kernel⟩, .inr ⟨9, by decide +kernel⟩⟩

theorem wit_IllegalTDigit :
    ∀ c ∈ [Chr.d 0, .minus, .other 0],
      (at100 (ins c [9, 0, 0, 0, 0, 0, 0, 0, 5, 0, 0])).schedule = [] ∧
      prefetched (at100 (ins c [9, 0, 0, 0, 0, 0, 0, 0, 5, 0, 0])) = false ∧
      region (at100 (ins c [9, 0, 0, 0, 0, 0, 0, 0, 5, 0, 0])).inst 100 ≠ .unmapped ∧
      ((at100 (ins c [9, 0, 0, 0, 0, 0, 0, 0, 5, 0, 0])).load 100).c12 = c ∧ c ≠ .period ∧ c ≠ .ignore ∧
      ∀ t : Fin 10, t ≠ 0 → c ≠ .d t := by decide +kernel

theorem wit_StepKeepsGood :
    (sAM (w (.d 0) 7) (w .minus 8)).good = true ∧ State.reset.good = true ∧ goesOn (step State.reset) = true ∧
    (at100 (ins .period [0, 1, 0, 1, 0, 0, 0, 0, 1, 0, 0])).good = true ∧
    goesOn (step (at100 (ins .period [0, 1, 0, 1, 0, 0, 0, 0, 1, 0, 0]))) = true := by decide +kernel

theorem wit_StopInstruction : effM (st [] []) (o 99 99999) = .ok 99999 ∧
    ({ st [] [] with stopped := true } : State).stopped = true ∧ ({ st [] [] with stopped := true } : State).schedule = [] := by decide

theorem wit_RoutineEntry : ({ st [] [] with trap := some ⟨.contingency, 44⟩ } : State).schedule = [] ∧
    ({ st [] [] with trap := some ⟨.contingency, 44⟩ } : State).stopped = false ∧
    ({ st [] [] with trap := some ⟨.contingency, 44⟩ } : State).trap = some ⟨.contingency, 44⟩ := by decide

theorem wit_ExternalMoves :
    ∀ m ∈ [Move.resetDisclosure, .processorIntervention true, .consoleIntervention 0 false, .consoleIntervention 4 true,
        .setInterlock true, .loadDisplay5 (Five.ofChars [.minus]), .loadDisplay12 absoluteZero, .writeCore 97499 absoluteZero,
        .writeCore 97500 absoluteZero],
      ({ st [] [] with schedule := [some m] } : State).schedule = some m :: [] ∧
        goesOn (step { st [] [] with schedule := [some m] }) = true := by decide +kernel

/-- An event pending already stands before one that a move asks for. -/
theorem wit_ExternalMoves_pending :
    (stepped { st [] [] with schedule := [some (.consoleIntervention 4 true)], trap := some ⟨.error, 49⟩ }).map
      (fun t => (t.trap, t.flag 34)) = some (some ⟨.error, 49⟩, true) := by decide +kernel

theorem wit_FrameStorage : goesOn (exec (.ss (o 1 1000)) (st [] [])) = true ∧ 3 ∉ writtenRegs (.ss (o 1 1000)) ∧
    effM (st [] []) (o 1 1000) = .ok 1000 ∧ storedWords (.ss (o 1 1000)) = 2 ∧
    goesOn (exec (.ax (o 1 1000)) (st [] [])) = true ∧ 2 ∉ writtenRegs (.ax (o 1 1000)) ∧ 0 = storedWords (.ax (o 1 1000)) := by
  decide +kernel

theorem wit_FrameFlags : goesOn (exec (.ax (o 1 1000)) (st [] [])) = true ∧ 43 ∉ flagsWritten (.ax (o 1 1000)) ∧
    goesOn (exec (.rf (o 40 0)) (st [] [])) = true ∧ 41 ∉ flagsWritten (.rf (o 40 0)) ∧
    goesOn (exec (.sf (o 90 0)) (st [] [])) = true ∧ 89 ∉ flagsWritten (.sf (o 90 0)) := by decide +kernel

theorem wit_OnlyResetClears : ((st [] []).putFlags [44, 99]).flag 99 = true ∧
    (after (.rf (o 44 0)) ((st [] []).putFlags [44, 99])).map (fun t => t.flag 99) = some false := by decide +kernel

theorem wit_ControlCounters : goesOn (exec (.t (o 0 500)) (st [] [])) = true ∧ inXfer (.t (o 0 500)) = true ∧
    goesOn (exec (.slj (o 0 500)) (st [] [])) = true ∧ inXfer (.slj (o 0 500)) = false ∧
    goesOn (exec (.h (o 0 500)) (st [] [])) = true ∧ sameRegion Installation.full 97498 = true ∧
    sameRegion Installation.full 97499 = false ∧ sameRegion Installation.full 99901 = true := by decide +kernel

theorem wit_FrameOther : ∀ i ∈ [Instr.sv (o 1 0), .svk (o 1 0), .fv (o 1 0), .fvk (o 1 0), .h (o 1 0), .ax (o 1 0)],
    goesOn (exec i (st [] [])) = true := by decide +kernel

theorem wit_ContingencyRecorded :
    goesOn (exec (.ax (o 1 1000)) (sAM (w (.d 0) 60000000000) (w (.d 0) 50000000000))) = true ∧
    (sAM (w (.d 0) 60000000000) (w (.d 0) 50000000000)).trap = none ∧ goesOn (exec (.f (o 1 1000)) (st [] [])) = true := by
  decide +kernel

theorem wit_GoesOnExactly : operandsThere (.dse (o 98 99999)) (st [] []) 99999 = true ∧
    effM (st [] []) (o 98 99999) = .ok 99999 ∧ operandsThere (.dse (o 99 1000)) (st [] []) 1000 = false ∧
    operandsThere (.dd (o 1 97499)) (st [] []) 97499 = false := by decide +kernel

theorem wit_EffectiveAddress : (o 1 1000).b = 0 ∧ (st [(7, w (.d 0) 88888)] []).hasReg 7 = true ∧
    slice ((st [(7, w (.d 0) 88888)] []).reg 7) 5 1 = dig 5 88888 ∧ 11111 + 88888 ≤ 99999 ∧
    ({ st [] [] with inst := ⟨26, 10000, 0, false⟩ } : State).hasReg 27 = false ∧ ({ st [] [] with inst := ⟨26, 10000, 0, false⟩ } : State).hasReg 26 = true := by
  decide +kernel

theorem wit_FixedAdd :
    let s := sAM (w (.d 0) 99999999998) (w .minus 99999999999)
    effM s (o 1 1000) = .ok 1000 ∧ readable s 1000 = true ∧ s.hasReg 1 = true ∧ plain (s.reg 1).c12 = true ∧
      plain (s.load 1000).c12 = true ∧ fixedValue (s.reg 1) + fixedValue (s.load 1000) = -1 ∧
      fixedValue ((sAM (w (.d 0) 5) (w (.d 0) 5)).reg 1) - fixedValue ((sAM (w (.d 0) 5) (w (.d 0) 5)).load 1000) = 0 ∧
      fixedValue ((sAM (w (.d 0) 99999999999) (w (.d 0) 0)).reg 1) +
        fixedValue ((sAM (w (.d 0) 99999999999) (w (.d 0) 0)).load 1000) = 10 ^ 11 - 1 := by decide +kernel

theorem wit_FixedAddPeriod :
    let s := sAM (w .period 99999999990) (w (.d 0) 9)
    let u := sAM (w .period 5) (w .minus 3)
    let v := sAM (w .minus 5) (w .period 3)
    readable s 1000 = true ∧ s.hasReg 1 = true ∧ (s.reg 1).c12 = .period ∧ (s.load 1000).c12 = .d 0 ∧
      fxmag (s.reg 1) + fxmag (s.load 1000) = 10 ^ 11 - 1 ∧ (u.reg 1).c12 = .period ∧ (u.load 1000).c12 = .minus ∧
      ordinary (v.reg 1).c12 = true ∧ (v.load 1000).c12 = .period := by decide +kernel

theorem wit_FixedAddDouble :
    let s := sPP (w (.d 0) 99999999999) (w (.d 0) 99999999999) (w .minus 0) (w (.d 0) 1)
    let p := sPP (w .period 5) (w (.d 0) 7) (w .minus 5) (w (.d 0) 7)
    let P := 9999999999999999999999
    (effM s (o 1 1000) = .ok 1000 ∧ sameRegion s.inst 1000 = true ∧ hasPair s 1 = true ∧ hasPair s 98 = true ∧
      hasPair s 99 = false ∧ dfxmag (s.reg 1) (s.reg 2) = P ∧ dfxmag (s.load 1000) (s.load 1001) = 1 ∧
      sumValue (s.load 1000).c12 (s.load 1000).c12 true 1 1 = 0 ∧ plain (s.load 1000).c12 = true) ∧
    sumResult (s.reg 1).c12 (s.load 1000).c12 false P 1 (.d 0) (10 ^ 22 - 2) ∧
    sumResult (p.reg 1).c12 (p.load 1000).c12 true 500000000007 500000000007 (.d 0) 1000000000014 :=
  ⟨by decide +kernel, by unfold sumResult; decide +kernel, by unfold sumResult; decide +kernel⟩

theorem wit_FixedOverflow :
    let s := sAM (w .minus 99999999999) (w .minus 1)
    let p := sAM (w .minus 99999999999) (w .period 1)
    let q := sPP (w (.d 0) 99999999999) (w (.d 0) 99999999999) (w .minus 0) (w (.d 0) 1)
    (operandsThere (.ax (o 1 1000)) s 1000 = true ∧ operandsThere (.nnx (o 1 1000)) q 1000 = true) ∧
    sumResult (s.reg 1).c12 (s.load 1000).c12 false (fxmag (s.reg 1)) (fxmag (s.load 1000)) .minus (10 ^ 11) ∧
    sumResult (p.reg 1).c12 (p.load 1000).c12 true (fxmag (p.reg 1)) (fxmag (p.load 1000)) .minus (10 ^ 11) ∧
    sumResult (q.reg 1).c12 (q.load 1000).c12 true (dfxmag (q.reg 1) (q.reg 2)) (dfxmag (q.load 1000) (q.load 1001)) (.d 0)
      (10 ^ 22) :=
  ⟨by decide +kernel, by unfold sumResult; decide +kernel, by unfold sumResult; decide +kernel,
    by unfold sumResult; decide +kernel⟩

theorem wit_NumericSignCarried :
    let s := sAM (w (.d 1) 5) (w .period 3)
    let u := sAM (w .minus 5) (w (.d 9) 3)
    readable s 1000 = true ∧ s.hasReg 1 = true ∧ numericSign (s.reg 1).c12 = true ∧ ordinary (s.load 1000).c12 = true ∧
      ordinary (u.reg 1).c12 = true ∧ numericSign (u.load 1000).c12 = true := by decide +kernel

/-- A carry at the exponent 98, the last that leaves a two-digit exponent: of signed numbers by 04, and under a period in (A) by
14, which inverts the sign of (M). -/
theorem wit_FloatAdd_carry :
    let s := sAM (w (.d 0) 98900000000) (w (.d 0) 97800000000)
    let p := sAM (w .period 98900000000) (w .minus 98100000000)
    (effM s (o 1 1000) = .ok 1000 ∧ (Instr.au (o 1 1000), 2, Chr.d 0, false) ∈ singleSums (o 1 1000) (s.load 1000) ∧
      operandsThere (.au (o 1 1000)) s 1000 = true ∧ flexp (s.reg 1) = 98 ∧ flexp (s.load 1000) = 97 ∧
      (Instr.nu (o 1 1000), 2, Chr.minus, true) ∈ singleSums (o 1 1000) (p.load 1000)) ∧
    alignedTo 98 (flexp (s.reg 1)) (flsig (s.reg 1)) 900000000 ∧
    alignedTo 98 (flexp (s.load 1000)) (flsig (s.load 1000)) 80000000 ∧
    sumResult (s.reg 1).c12 (.d 0) false 900000000 80000000 (.d 0) 980000000 ∧
    sumResult (p.reg 1).c12 (p.load 1000).c12 true 900000000 100000000 (.d 0) 1000000000 ∧
    normalizedSum 9 98 980000000 98 980000000 ∧ normalizedSum 9 98 1000000000 99 100000000 :=
  ⟨by decide +kernel, by unfold alignedTo; decide +kernel, by unfold alignedTo; decide +kernel,
    by unfold sumResult; decide +kernel, by unfold sumResult; decide +kernel, .inr ⟨by decide, 0, by decide⟩, .inl (by decide)⟩

/-- Leading zeros shifted out down to the exponent 00, by 12 and by 03 whose M operand has any sign. -/
theorem wit_FloatAdd_zeros :
    let s := sAM (w .minus 8100000001) (w .period 8100000000)
    (effM s (o 1 1000) = .ok 1000 ∧ (Instr.am (o 1 1000), 1, Chr.d 0, false) ∈ singleSums (o 1 1000) (s.load 1000) ∧
      operandsThere (.am (o 1 1000)) s 1000 = true) ∧
    alignedTo 8 (flexp (s.reg 1)) (flsig (s.reg 1)) 100000001 ∧
    alignedTo 8 (flexp (s.load 1000)) (flsig (s.load 1000)) 100000000 ∧
    sumResult (s.reg 1).c12 (.d 0) false 100000001 100000000 .minus 1 ∧ normalizedSum 9 8 1 0 100000000 :=
  ⟨by decide +kernel, by unfold alignedTo; decide +kernel, by unfold alignedTo; decide +kernel,
    by unfold sumResult; decide +kernel, .inr ⟨by decide, 8, by decide⟩⟩

theorem wit_FloatAddDouble :
    let s := sPP (w (.d 0) 51100000000) (w (.d 0) 1) (w (.d 0) 51100000000) (w (.d 0) 0)
    (effM s (o 1 1000) = .ok 1000 ∧ sameRegion s.inst 1000 = true ∧ hasPair s 1 = true ∧ plain (s.reg 1).c12 = true ∧
      plain (s.load 1000).c12 = true) ∧
    alignedTo 51 (flexp (s.reg 1)) (dflsig (s.reg 1) (s.reg 2)) 10000000000000000001 ∧
    alignedTo 51 (flexp (s.load 1000)) (dflsig (s.load 1000) (s.load 1001)) 10000000000000000000 ∧
    sumResult (s.reg 1).c12 (s.load 1000).c12 true 10000000000000000001 10000000000000000000 (.d 0) 1 ∧
    sumResult .minus .period true 10000000000000000001 10000000000000000000 .minus 20000000000000000001 ∧
    normalizedSum 20 51 1 32 10000000000000000000 ∧ normalizedSum 20 51 20000000000000000001 51 20000000000000000001 :=
  ⟨by decide +kernel, by unfold alignedTo; decide +kernel, by unfold alignedTo; decide +kernel,
    by unfold sumResult; decide +kernel, by unfold sumResult; decide +kernel, .inr ⟨by decide, 19, by decide⟩,
    .inr ⟨by decide, 0, by decide⟩⟩

/-- The alignment drops a digit of the addend in A, and one of the addend in M; in the sum of signed numbers and under a
period. -/
theorem wit_FloatAdd_inexact :
    let s := sAM (w (.d 0) 50123456789) (w .minus 51100000000)
    let p := sAM (w .minus 52123456789) (w .period 51100000001)
    (effM s (o 1 1000) = .ok 1000 ∧ (Instr.a (o 1 1000), 1, Chr.minus, false) ∈ singleSums (o 1 1000) (s.load 1000) ∧
      operandsThere (.a (o 1 1000)) s 1000 = true ∧ plain (s.reg 1).c12 = true ∧ plain (s.load 1000).c12 = true ∧
      (Instr.nu (o 1 1000), 2, Chr.period, true) ∈ singleSums (o 1 1000) (p.load 1000) ∧
      periodSign (p.reg 1).c12 (p.load 1000).c12 true = some .minus) ∧
    dropsDigit (flexp (s.reg 1)) (flsig (s.reg 1)) (flexp (s.load 1000)) (flsig (s.load 1000)) 51 50 ∧
    dropsDigit (flexp (p.reg 1)) (flsig (p.reg 1)) (flexp (p.load 1000)) (flsig (p.load 1000)) 52 51 :=
  ⟨by decide +kernel, by unfold dropsDigit; decide +kernel, by unfold dropsDigit; decide +kernel⟩

theorem wit_FloatAddDouble_inexact :
    let s := sPP (w (.d 0) 99100000000) (w (.d 0) 0) (w .minus 100000000) (w (.d 0) 1)
    let p := sPP (w .period 50123456789) (w (.d 0) 1) (w .minus 51100000000) (w (.d 0) 0)
    (effM s (o 1 1000) = .ok 1000 ∧ sameRegion s.inst 1000 = true ∧ hasPair s 1 = true ∧ plain (s.reg 1).c12 = true ∧
      plain (s.load 1000).c12 = true ∧ periodSign (p.reg 1).c12 (p.load 1000).c12 true = some (.d 0)) ∧
    dropsDigit (flexp (s.reg 1)) (dflsig (s.reg 1) (s.reg 2)) (flexp (s.load 1000))
      (dflsig (s.load 1000) (s.load 1001)) 99 0 ∧
    dropsDigit (flexp (p.reg 1)) (dflsig (p.reg 1) (p.reg 2)) (flexp (p.load 1000))
      (dflsig (p.load 1000) (p.load 1001)) 51 50 :=
  ⟨by decide +kernel, by unfold dropsDigit; decide +kernel, by unfold dropsDigit; decide +kernel⟩

/-- Two zero significands under a period, exponents unequal: 14 in single precision, 06 in double. -/
theorem wit_FloatZeroResult_period :
    let s := sPP (w .period 51000000000) (w .minus 0) (w .minus 50000000000) (w (.d 0) 0)
    operandsThere (.nu (o 1 1000)) s 1000 = true ∧ operandsThere (.aa (o 1 1000)) s 1000 = true ∧
      (Instr.nu (o 1 1000), 2, Chr.minus, true) ∈ singleSums (o 1 1000) (s.load 1000) ∧
      flsig (s.reg 1) = 0 ∧ flsig (s.load 1000) = 0 ∧ dflsig (s.reg 1) (s.reg 2) = 0 ∧
      dflsig (s.load 1000) (s.load 1001) = 0 ∧ periodSign (s.reg 1).c12 .minus true = some (.d 0) ∧
      periodSign (s.reg 1).c12 (s.load 1000).c12 false = some .minus := by decide +kernel

/-- Zeros by 12, by 03, by 02 of unequal exponents, by 16; at the exponents 09 and 08 where 43 begins, and 20 and 19. -/
theorem wit_FloatZeroResult :
    let s := sAM (w .minus 9123456789) (w .minus 9123456789)
    let u := sAM (w .minus 8123456789) (w (.d 7) 8123456789)
    let z := sAM (w (.d 0) 99000000000) (w (.d 0) 3000000000)
    let d := sPP (w (.d 0) 19100000000) (w (.d 0) 1) (w (.d 0) 19100000000) (w (.d 0) 1)
    (operandsThere (.n (o 1 1000)) s 1000 = true ∧ flexp (s.reg 1) = 9 ∧ flexp (s.load 1000) = 9 ∧
      (Instr.n (o 1 1000), 1, Chr.minus, true) ∈ singleSums (o 1 1000) (s.load 1000) ∧
      sumValue (s.reg 1).c12 (s.load 1000).c12 true 123456789 123456789 = 0 ∧ plain (s.reg 1).c12 = true ∧
      flexp (u.reg 1) = 8 ∧ flexp (u.load 1000) = 8 ∧ sumValue (u.reg 1).c12 (.d 0) false 123456789 123456789 = 0 ∧
      flexp (z.reg 1) = 99 ∧ flexp (z.load 1000) = 3 ∧ sumValue (z.reg 1).c12 (z.load 1000).c12 false 0 0 = 0 ∧
      operandsThere (.nn (o 1 1000)) d 1000 = true ∧ flexp (d.reg 1) = 19 ∧
      sumValue (d.reg 1).c12 (d.load 1000).c12 true 10000000000000000001 10000000000000000001 = 0) ∧
    alignedTo 9 (flexp (s.reg 1)) (flsig (s.reg 1)) 123456789 ∧ alignedTo 99 (flexp (z.load 1000)) (flsig (z.load 1000)) 0 ∧
    alignedTo 19 (flexp (d.reg 1)) (dflsig (d.reg 1) (d.reg 2)) 10000000000000000001 :=
  ⟨by decide +kernel, by unfold alignedTo; decide +kernel, by unfold alignedTo; decide +kernel,
    by unfold alignedTo; decide +kernel⟩

theorem wit_AbsoluteZeroAddend :
    let s := sAM (w .minus 99100000000) (w (.d 0) 0)
    effM s (o 1 99900) = .ok 99900 ∧ readable s 99900 = true ∧ s.hasReg 1 = true ∧ s.load 99900 = absoluteZero ∧
      plain (s.reg 1).c12 = true ∧ (slice (s.reg 1) 11 1).all isNum = true ∧ normalized 9 (flsig (s.reg 1)) = true := by
  decide +kernel

/-- A carry at 99 and eight zeros at 07, by 02; the carry again under a period; and in double precision 20 zeros but one. -/
theorem wit_FloatExponentRange :
    let s := sAM (w (.d 0) 99500000000) (w (.d 0) 99500000000)
    let u := sAM (w (.d 0) 7100000001) (w .minus 7100000000)
    let p := sAM (w .minus 99500000000) (w .period 99500000000)
    let d := sPP (w (.d 0) 18100000000) (w (.d 0) 1) (w (.d 0) 18100000000) (w (.d 0) 0)
    (operandsThere (.a (o 1 1000)) s 1000 = true ∧ flexp (s.reg 1) = 99 ∧ flexp (s.load 1000) = 99 ∧ flexp (u.reg 1) = 7 ∧
      (Instr.a (o 1 1000), 1, Chr.d 0, false) ∈ singleSums (o 1 1000) (s.load 1000) ∧
      operandsThere (.nn (o 1 1000)) d 1000 = true ∧ flexp (d.reg 1) = 18 ∧ flexp (d.load 1000) = 18) ∧
    alignedTo 99 (flexp (s.reg 1)) (flsig (s.reg 1)) 500000000 ∧
    sumResult (s.reg 1).c12 (s.load 1000).c12 false 500000000 500000000 (.d 0) 1000000000 ∧
    normalizedSum 9 99 1000000000 100 100000000 ∧
    sumResult (u.reg 1).c12 (u.load 1000).c12 false 100000001 100000000 (.d 0) 1 ∧ normalizedSum 9 7 1 (-1) 100000000 ∧
    sumResult (p.reg 1).c12 (p.load 1000).c12 false 500000000 500000000 .minus 1000000000 ∧
    (periodSign (p.reg 1).c12 (p.load 1000).c12 false).isSome = true ∧
    sumResult (d.reg 1).c12 (d.load 1000).c12 true 10000000000000000001 10000000000000000000 (.d 0) 1 ∧
    normalizedSum 20 18 1 (-1) 10000000000000000000 :=
  ⟨by decide +kernel, by unfold alignedTo; decide +kernel, by unfold sumResult; decide +kernel, .inl (by decide),
    by unfold sumResult; decide +kernel, .inr ⟨by decide, 8, by decide⟩, by unfold sumResult; decide +kernel,
    by decide +kernel, by unfold sumResult; decide +kernel, .inr ⟨by decide, 19, by decide⟩⟩

theorem wit_SignAnomaly :
    let s := sAM (w (.d 3) 5) (w (.d 4) 3)
    let u := sPP (w .minus 1) (w (.d 1) 1) (w .minus 1) (w (.d 0) 1)
    operandsThere (.nx (o 1 1000)) s 1000 = true ∧ examinedSigns (.nx (o 1 1000)) s 1000 = some (.d 3, .d 4) ∧
      anomalousSigns (.nx (o 1 1000)) (.d 3) (.d 4) = true ∧ anomalousSigns (.nx (o 1 1000)) (.d 3) (.d 0) = false ∧
      operandsThere (.mm (o 1 1000)) u 1000 = true ∧ examinedSigns (.mm (o 1 1000)) u 1000 = some (.d 1, .d 0) ∧
      anomalousSigns (.mm (o 1 1000)) (.d 1) (.d 0) = true := by decide +kernel

theorem wit_FixedMultiply :
    let s := sPP (w (.d 0) 99999999999) (w .period 1) (w .minus 99999999999) (w .minus 1)
    readable s 1000 = true ∧ s.hasReg 1 = true ∧ s.hasReg 2 = true ∧ ordinary (s.reg 1).c12 = true ∧
      ordinary (s.load 1000).c12 = true ∧ sameRegion s.inst 1000 = true ∧ hasPair s 1 = true ∧
      ordinary (s.reg 2).c12 = true ∧ ordinary (s.load 1001).c12 = true ∧ effM s (o 1 1000) = .ok 1000 := by decide +kernel

/-- The product of the two smallest and of the two largest significands. -/
theorem wit_FloatMultiply :
    let s := sAM (w (.d 0) 51100000000) (w .minus 51100000000)
    let u := sAM (w (.d 0) 74999999999) (w (.d 0) 74999999999)
    (effM s (o 1 1000) = .ok 1000 ∧ readable s 1000 = true ∧ s.hasReg 1 = true ∧ s.hasReg 2 = true ∧
      plain (s.reg 1).c12 = true ∧ plain (s.load 1000).c12 = true ∧ normalized 9 (flsig (s.reg 1)) = true ∧
      normalized 9 (flsig (s.load 1000)) = true ∧ plain (u.reg 1).c12 = true ∧ normalized 9 (flsig (u.reg 1)) = true) ∧
    productDigits 9 9 (flexp (s.reg 1)) (flsig (s.reg 1)) (flexp (s.load 1000)) (flsig (s.load 1000)) 51 100000000 ∧
    productDigits 9 20 (flexp (s.reg 1)) (flsig (s.reg 1)) (flexp (s.load 1000)) (flsig (s.load 1000)) 51
      10000000000000000000 ∧
    productDigits 9 9 (flexp (u.reg 1)) (flsig (u.reg 1)) (flexp (u.load 1000)) (flsig (u.load 1000)) 98 999999998 :=
  ⟨by decide +kernel, by unfold productDigits productSignificand; decide +kernel,
    by unfold productDigits productSignificand; decide +kernel,
    by unfold productDigits productSignificand; decide +kernel⟩

theorem wit_FloatMultiplyDouble :
    let s := sPP (w (.d 5) 51200000000) (w (.d 0) 0) (w (.d 0) 51300000000) (w .minus 0)
    (effM s (o 1 1000) = .ok 1000 ∧ sameRegion s.inst 1000 = true ∧ hasPair s 1 = true ∧ plain (s.reg 2).c12 = true ∧
      plain (s.load 1001).c12 = true ∧ normalized 20 (dflsig (s.reg 1) (s.reg 2)) = true ∧
      normalized 20 (dflsig (s.load 1000) (s.load 1001)) = true) ∧
    productDigits 20 20 (flexp (s.reg 1)) (dflsig (s.reg 1) (s.reg 2)) (flexp (s.load 1000))
      (dflsig (s.load 1000) (s.load 1001)) 51 60000000000000000000 :=
  ⟨by decide +kernel, by unfold productDigits productSignificand; decide +kernel⟩

theorem wit_FloatMultiplyPeriod :
    let s := sPP (w .period 99500000000) (w .period 7) (w (.d 0) 99500000000) (w .minus 8)
    let z := sPP absoluteZero absoluteZero (w .minus 51123456789) (w (.d 0) 0)
    (effM s (o 1 1000) = .ok 1000 ∧ readable s 1000 = true ∧ s.hasReg 1 = true ∧ s.hasReg 2 = true ∧
      ordinary (s.reg 1).c12 = true ∧ ordinary (s.load 1000).c12 = true ∧ (s.reg 1).c12 = .period ∧
      normalized 9 (flsig (s.reg 1)) = true ∧ normalized 9 (flsig (s.load 1000)) = true ∧ sameRegion s.inst 1000 = true ∧
      normalized 20 (dflsig (s.reg 1) (s.reg 2)) = true ∧ normalized 20 (dflsig (s.load 1000) (s.load 1001)) = true ∧
      ordinary (s.reg 2).c12 = true ∧ ordinary (s.load 1001).c12 = true ∧ (s.reg 2).c12 = .period ∧
      z.reg 1 = absoluteZero ∧ z.reg 2 = absoluteZero ∧ ordinary (z.load 1000).c12 = true ∧
      normalized 9 (flsig (z.load 1000)) = true ∧ ordinary (z.load 1001).c12 = true ∧ fxmag (z.reg 2) = 0 ∧
      sameRegion z.inst 1000 = true ∧ z.hasReg 2 = true ∧ normalized 20 (dflsig (z.load 1000) (z.load 1001)) = true) ∧
    productSignificand 9 9 (flsig (s.reg 1)) (flsig (s.load 1000)) 250000000 ∧
    productSignificand 9 20 (flsig (s.reg 1)) (flsig (s.load 1000)) 25000000000000000000 ∧
    quotientDigits 9 9 9 (flexp (s.reg 1)) (flsig (s.reg 1)) (flexp (s.load 1000)) (flsig (s.load 1000)) 51 100000000 ∧
    quotientDigits 20 9 20 (flexp (s.reg 1)) (dflsig (s.reg 1) (s.reg 2)) (flexp (s.load 1000)) (flsig (s.load 1000)) 51
      10000000000000000001 ∧
    productSignificand 20 20 (dflsig (s.reg 1) (s.reg 2)) (dflsig (s.load 1000) (s.load 1001)) 25000000000000000007 :=
  ⟨by decide +kernel, by unfold productSignificand; decide +kernel, by unfold productSignificand; decide +kernel,
    .inr (by decide +kernel), .inr (by decide +kernel), by unfold productSignificand; decide +kernel⟩

/-- Exponents out of range: a product of 100 and one of -1, quotients of 100 and -1. -/
theorem wit_exponents_out_of_range :
    productDigits 9 9 99 500000000 51 500000000 100 250000000 ∧ productDigits 9 9 25 100000000 25 100000000 (-1) 100000000 ∧
    productDigits 20 20 99 50000000000000000000 51 50000000000000000000 100 25000000000000000000 ∧
    quotientDigits 9 9 9 99 500000000 50 500000000 100 100000000 ∧
    quotientDigits 20 20 20 0 10000000000000000000 51 50000000000000000000 (-1) 20000000000000000000 :=
  ⟨by unfold productDigits productSignificand; decide +kernel, by unfold productDigits productSignificand; decide +kernel,
    by unfold productDigits productSignificand; decide +kernel, .inr (by decide +kernel), .inl (by decide +kernel)⟩

theorem wit_FixedDivide :
    let s := sPP (w .minus 10000000000) (w (.d 0) 0) (w (.d 0) 30000000000) (w (.d 0) 0)
    readable s 1000 = true ∧ s.hasReg 1 = true ∧ s.hasReg 2 = true ∧ ordinary (s.reg 1).c12 = true ∧
      ordinary (s.load 1000).c12 = true ∧ fxmag (s.reg 1) < fxmag (s.load 1000) ∧
      fxmag (s.reg 1) * 10 ^ 11 = 33333333333 * fxmag (s.load 1000) + 10000000000 ∧ 10000000000 < fxmag (s.load 1000) ∧
      sameRegion s.inst 1000 = true ∧ hasPair s 1 = true ∧
      dfxmag (s.reg 1) (s.reg 2) * 10 ^ 22 =
        3333333333333333333333 * dfxmag (s.load 1000) (s.load 1001) + 1000000000000000000000 ∧
      fxmag (w (.d 0) 99999999998) < fxmag (w .period 99999999999) := by
  decide +kernel

theorem wit_FloatDivide :
    let s := sPP (w (.d 0) 51600000000) (w (.d 0) 0) (w .minus 51200000000) (w (.d 0) 0)
    (effM s (o 1 1000) = .ok 1000 ∧ readable s 1000 = true ∧ s.hasReg 1 = true ∧ s.hasReg 2 = true ∧
      plain (s.reg 1).c12 = true ∧ plain (s.load 1000).c12 = true ∧ normalized 9 (flsig (s.reg 1)) = true ∧
      normalized 9 (flsig (s.load 1000)) = true ∧ normalized 20 (dflsig (s.reg 1) (s.reg 2)) = true ∧
      sameRegion s.inst 1000 = true ∧ normalized 20 (dflsig (s.load 1000) (s.load 1001)) = true) ∧
    quotientDigits 9 9 9 (flexp (s.reg 1)) (flsig (s.reg 1)) (flexp (s.load 1000)) (flsig (s.load 1000)) 51 300000000 ∧
    quotientDigits 9 9 9 (flexp (s.load 1000)) (flsig (s.load 1000)) (flexp (s.reg 1)) (flsig (s.reg 1)) 50 333333333 ∧
    quotientDigits 20 9 20 (flexp (s.reg 1)) (dflsig (s.reg 1) (s.reg 2)) (flexp (s.load 1000)) (flsig (s.load 1000)) 51
      30000000000000000000 ∧
    quotientDigits 20 20 20 (flexp (s.reg 1)) (dflsig (s.reg 1) (s.reg 2)) (flexp (s.load 1000))
      (dflsig (s.load 1000) (s.load 1001)) 51 30000000000000000000 :=
  ⟨by decide +kernel, .inr (by decide +kernel), .inl (by decide +kernel), .inr (by decide +kernel),
    .inr (by decide +kernel)⟩

theorem wit_DivideContingencies :
    let s := sPP (w (.d 0) 50000000000) (w (.d 0) 0) (w .minus 50000000000) (w (.d 0) 0)
    let u := sPP (w (.d 0) 51100000000) (w (.d 0) 0) (w .period 51099999999) (w (.d 0) 99999999999)
    readable s 1000 = true ∧ s.hasReg 1 = true ∧ s.hasReg 2 = true ∧ ordinary (s.reg 1).c12 = true ∧
      ordinary (s.load 1000).c12 = true ∧ fxmag (s.load 1000) = fxmag (s.reg 1) ∧ sameRegion s.inst 1000 = true ∧
      dfxmag (s.load 1000) (s.load 1001) = dfxmag (s.reg 1) (s.reg 2) ∧ flsig (u.load 1000) = 10 ^ 8 - 1 ∧
      dflsig (u.load 1000) (u.load 1001) = 10 ^ 19 - 1 ∧ ordinary (u.load 1000).c12 = true ∧ hasPair s 1 = true := by
  decide +kernel

theorem wit_Stores : effM (st [] []) (o 0 97499) = .ok 97499 ∧ (st [] []).mem.wf = true ∧
    writable (st [] []) 97499 = true ∧ writable (st [] []) 99999 = true ∧ canSupply (st [] []) 0 = true ∧
    canSupply (st [] []) 99 = true ∧ sameRegion (st [] []).inst 97498 = true ∧ sameRegion (st [] []).inst 99998 = true ∧
    hasPair (st [] []) 98 = true := by decide +kernel

theorem wit_NegativeStores :
    let s := st [(3, w .minus 1), (4, w .period 2), (5, w (.other 0) 3), (6, w (.d 9) 4)] []
    effM s (o 3 1000) = .ok 1000 ∧ s.mem.wf = true ∧ writable s 1000 = true ∧ canSupply s 3 = true ∧
      ordinary (s.reg 3).c12 = true ∧ ordinary (s.reg 4).c12 = true ∧ ordinary (s.reg 5).c12 = false ∧
      ordinary (s.reg 6).c12 = false ∧ sameRegion s.inst 1000 = true ∧ hasPair s 3 = true ∧ hasPair s 5 = true ∧
      ordinary (s.reg 0).c12 = true ∧ canSupply s 0 = true := by decide +kernel

theorem wit_Fetches : effM (st [] []) (o 99 99900) = .ok 99900 ∧ readable (st [] []) 99900 = true ∧
    (st [] []).hasReg 99 = true ∧ sameRegion (st [] []).inst 99998 = true ∧ hasPair (st [] []) 98 = true := by decide +kernel

theorem wit_ExtractPart : effM (st [] []) (o 3 99900) = .ok 99900 ∧ readable (st [] []) 99900 = true ∧
    (st [] []).hasReg 3 = true := by decide +kernel

theorem wit_StoreC2 : effM (st [] []) (o 0 99901) = .ok 99901 ∧ (st [] []).mem.wf = true ∧
    region (st [] []).inst 97499 = .core ∧ region (st [] []).inst 99901 = .fast 1 ∧
    region (st [] []).inst 99999 = .fast 99 := by decide +kernel

theorem wit_CompareWords :
    let s := st [(4, w .period 5), (5, w (.d 1) 0), (6, w .minus 0), (7, w (.d 0) 0), (8, w .minus 3)] []
    effM s (o 4 200) = .ok 200 ∧ hasPair s 4 = true ∧ foreignSign (s.reg 4).c12 = false ∧
      foreignSign (s.reg 5).c12 = false ∧ key (s.reg 4) < key (s.reg 5) ∧ key (s.reg 6) = key (s.reg 7) ∧
      (s.reg 6).c12 = .minus ∧ numericSign (s.reg 5).c12 = true ∧ ordinary (s.reg 4).c12 = true ∧
      (slice (s.reg 5) 12 1).all isNum = true ∧ (slice (s.reg 7) 12 1).all isNum = true ∧ plain (s.reg 8).c12 = true := by
  decide +kernel

theorem wit_ZeroTests :
    let s := st [(4, w .minus 0), (5, w (.d 9) 0)] []
    effM s (o 0 200) = .ok 200 ∧ canSupply s 0 = true ∧ canSupply s 4 = true ∧ ordinary (s.reg 0).c12 = true ∧
      ordinary (s.reg 4).c12 = true ∧ foreignSign (s.reg 5).c12 = false ∧ numericSign (s.reg 5).c12 = true := by
  decide +kernel

theorem wit_ComparePairs :
    let s := st [(4, w .minus 5), (5, w (.d 0) 2), (6, w .minus 5), (7, w .period 2), (96, w (.d 0) 7)] []
    effM s (o 4 200) = .ok 200 ∧ hasPair s 4 = true ∧ hasPair s 6 = true ∧ foreignSign (s.reg 4).c12 = false ∧
      foreignSign (s.reg 5).c12 = false ∧ foreignSign (s.reg 6).c12 = false ∧ foreignSign (s.reg 7).c12 = false ∧
      key (s.reg 4) = key (s.reg 6) ∧ ((s.reg 4).c12 = .minus ↔ (s.reg 6).c12 = .minus) ∧ key (s.reg 5) = key (s.reg 7) ∧
      ((s.reg 5).c12 = .minus ↔ (s.reg 7).c12 = .minus) ∧ hasPair s 96 = true ∧ hasPair s 98 = true ∧
      key (s.reg 98) < key (s.reg 96) := by decide +kernel

theorem wit_BlockedComparison :
    let s := st [(4, w (.other 0) 5), (5, w (.d 3) 0), (7, w .ignore 0)] []
    effM s (o 4 200) = .ok 200 ∧ operandsThere (.te (o 4 200)) s 200 = true ∧ operandsThere (.ttg (o 4 200)) s 200 = true ∧
      operandsThere (.tz (o 5 200)) s 200 = true ∧ foreignSign (s.reg 4).c12 = true ∧ ordinary (s.reg 5).c12 = false ∧
      foreignSign (s.reg 5).c12 = false ∧ foreignSign (s.reg 7).c12 = true ∧
      operandsThere (.tgz (o 4 200)) s 200 = true := by decide +kernel

theorem wit_TestFlipFlop : effM (st [] []) (o 99 200) = .ok 200 ∧
    ∀ k ∈ [0, 11, 15, 20, 34, 38, 82, 84, 90, 98, 99], permitted (.tf (o k 200)) = true := by decide +kernel

theorem wit_Transfers :
    let s := { st [] [] with pc := 97498 }
    effM s (o 7 99998) = .ok 99998 ∧ sameRegion s.inst 97498 = true ∧ s.mem.wf = true ∧ sameRegion s.inst 99998 = true ∧
      s.hasReg 7 = true := by decide +kernel

theorem wit_Shifts : effM (st [] []) (o 98 99999) = .ok 99999 ∧ hasPair (st [] []) 98 = true ∧
    min (99999 % 100) 11 = 11 ∧ min (99911 % 100) 11 = 11 ∧ min (99900 % 100) 22 = 0 := by decide +kernel

theorem wit_Shifts_circular : effM (st [] []) (o 98 24) = .ok 24 ∧ hasPair (st [] []) 98 = true := by decide +kernel

theorem wit_ShiftArithmetic :
    let s := st [(1, w .minus 12345678901), (2, w .period 99999999999)] []
    effM s (o 1 22) = .ok 22 ∧ s.hasReg 1 = true ∧ hasPair s 1 = true ∧ (slice (s.reg 1) 11 1).all isNum = true ∧
      (slice (s.reg 2) 11 1).all isNum = true := by decide +kernel

theorem wit_ExtractPattern :
    let s := st [(1, w .minus 5), (3, w .period 7)] [(1000, w .minus 11023111456)]
    effM s (o 2 1000) = .ok 1000 ∧ readable s 1000 = true ∧ s.hasReg 2 = true ∧ s.hasReg (2 - 1) = true ∧
      s.hasReg (2 + 1) = true := by decide +kernel

theorem wit_FloatToFixed :
    let s := st [(1, w .minus 54123456789), (2, w (.d 0) 0)] []
    effM s (o 1 57) = .ok 57 ∧ s.hasReg 1 = true ∧ s.hasReg 2 = true ∧ flexp (s.reg 1) + 3 = 57 ∧
      flexp (s.reg 1) + 0 = 54 ∧ flexp (s.reg 1) + 45 = 99 := by decide +kernel

/-- One leading zero; a pair; and, with scale factor 00, the exponent -1. -/
theorem wit_FixedToFloat :
    let s := st [(1, w .minus 1987654320), (2, w (.d 0) 1)] []
    effM s (o 1 48) = .ok 48 ∧ s.hasReg 1 = true ∧ s.hasReg 2 = true ∧ (47 : Int) + (1 : Nat) = (48 : Nat) ∧
      10 ^ 10 ≤ fxmag (s.reg 1) * 10 ^ 1 ∧ fxmag (s.reg 1) * 10 ^ 1 < 10 ^ 11 ∧
      10 ^ 21 ≤ dfxmag (s.reg 1) (s.reg 2) * 10 ^ 1 ∧ dfxmag (s.reg 1) (s.reg 2) * 10 ^ 1 < 10 ^ 22 ∧
      10 ^ 21 ≤ dfxmag (s.reg 3) (s.reg 2) * 10 ^ 21 ∧ dfxmag (s.reg 3) (s.reg 2) * 10 ^ 21 < 10 ^ 22 ∧
      effM s (o 1 0) = .ok 0 ∧ (-1 : Int) + (1 : Nat) = (0 : Nat) := by
  decide +kernel

theorem wit_ConvertZero : effM (st [] []) (o 1 11) = .ok 11 ∧ effM (st [] []) (o 1 10) = .ok 10 ∧
    effM (st [] []) (o 1 22) = .ok 22 ∧ effM (st [] []) (o 1 21) = .ok 21 ∧ (st [] []).hasReg 1 = true ∧
    (st [] []).hasReg 2 = true ∧ fxmag ((st [] []).reg 1) = 0 ∧ dfxmag ((st [] []).reg 1) ((st [] []).reg 2) = 0 := by decide

theorem wit_IndexRegisters :
    let s := st [(5, w (.d 0) 000999900000)] []
    let u := st [(5, w (.d 9) 99000299997)] []
    effM s (o 5 200) = .ok 200 ∧ s.hasReg 5 = true ∧ slice (s.reg 5) 9 6 = dig 4 9999 ∧ slice (s.reg 5) 5 1 = dig 5 0 ∧
      slice (s.reg 5) 12 10 = dig 3 0 ∧ 0 + 9999 ≤ 99999 ∧ ¬ 9999 ≤ 0 ∧ slice (u.reg 5) 12 10 = dig 3 999 ∧
      slice (u.reg 5) 9 6 = dig 4 2 ∧ slice (u.reg 5) 5 1 = dig 5 99997 ∧ 99997 + 2 ≤ 99999 ∧ 2 ≤ 99997 := by decide +kernel

theorem wit_DisplayRegisters : effM (st [] []) (o 1 300) = .ok 300 ∧ (st [] []).hasReg 1 = true ∧
    (st [] []).interlock = false ∧ { st [] [] with interlock := true }.interlock = true ∧ canSupply (st [] []) 0 = true ∧
    { st [] [] with interlock := true }.hasReg 99 = true := by decide +kernel

theorem wit_Skip : effM (st [] []) (o 0 77777) = .ok 77777 ∧ (⟨.untraced, 0, 27, 0⟩ : Fields).b ≠ 0 ∧
    ({ st [] [] with inst := ⟨26, 10000, 0, false⟩ } : State).hasReg 27 = false := by decide +kernel

theorem wit_ResetFlipFlop :
    (∀ k ∈ [0, 9, 11, 15, 20, 34, 38, 55, 70, 84, 90], permitted (.rf (o k 0)) = true) ∧
    (∀ k ∈ [10, 12, 71, 82, 98, 99], permitted (.rf (o k 0)) = false) ∧ effM (st [] []) (o 55 0) = .ok 0 := by decide +kernel

theorem wit_SetFlipFlop :
    (∀ k ∈ [0, 10, 15, 21, 29, 90], permitted (.sf (o k 0)) = true) ∧
    (∀ k ∈ [11, 14, 20, 30, 40, 99], permitted (.sf (o k 0)) = false) ∧ effM (st [] []) (o 10 0) = .ok 0 := by decide +kernel

end Sys2Proof.Tests
end

section
/-! Where the spec states no result (00_scope.md R9): the table of refusals (`unstated`) against the conditions of the rules
(`noResult`). Every part of the table is compared with the clauses it answers for, and the parts are put together along the
table's own `Option.or`. -/

namespace Sys2Proof.Machine
open Sys2Proof

/-! ### A search through a table, and what it looks for -/

/-- A search answers only what `P` allows, and answers nothing only where `P` allows nothing. -/
def Finds (r : Option Nat) (P : Nat → Prop) : Prop := (∀ d, r = some d → P d) ∧ (r = none → ∀ d, ¬ P d)

/-- What is looked for may be said otherwise. -/
theorem Finds.congr {r : Option Nat} {P Q : Nat → Prop} (h : Finds r P) (hPQ : ∀ d, P d ↔ Q d) : Finds r Q :=
  ⟨fun d hd => (hPQ d).1 (h.1 d hd), fun hr d hd => h.2 hr d ((hPQ d).2 hd)⟩

/-- Where there is nothing to find, no answer is right. -/
theorem Finds.of_none {P : Nat → Prop} (h : ∀ d, ¬ P d) : Finds none P := by
  refine ⟨fun d hd => ?_, fun _ => h⟩
  cases hd

/-- An entry of the table, and the rest of the search where its condition fails. -/
theorem Finds.entry {c : Prop} [Decidable c] (k : Nat) {r : Option Nat} {P : Nat → Prop} (h : Finds r P) :
    Finds (if c then some k else r) (fun d => (d = k ∧ c) ∨ P d) := by
  split
  · next hc =>
    refine ⟨fun d hd => .inl ⟨?_, hc⟩, fun hn => ?_⟩
    · exact (Option.some.inj hd).symm
    · cases hn
  · next hc => exact h.congr fun d => by simp [hc]

/-- A condition under which the search is not made. -/
theorem Finds.guarded {c : Prop} [Decidable c] {r : Option Nat} {P : Nat → Prop} (h : Finds r P) :
    Finds (if c then none else r) (fun d => ¬ c ∧ P d) := by
  split
  · next hc => exact .of_none fun _ hd => hd.1 hc
  · next hc => exact h.congr fun d => by simp [hc]

/-- An entry without a condition. -/
theorem Finds.single (k : Nat) : Finds (some k) (fun d => d = k) := by
  refine ⟨fun d hd => (Option.some.inj hd).symm, fun hn => ?_⟩
  cases hn

/-- The empty table. -/
theorem Finds.empty : Finds none (fun _ => False) := .of_none fun _ h => h

/-- One search after the other looks for what either looks for. -/
theorem Finds.or {r q : Option Nat} {P Q : Nat → Prop} (hr : Finds r P) (hq : Finds q Q) :
    Finds (r.or q) (fun d => P d ∨ Q d) := by
  cases r with
  | none =>
    exact ⟨fun d hd => .inr (hq.1 d (by simpa using hd)),
      fun h d hd => hd.elim (hr.2 rfl d) (hq.2 (by simpa using h) d)⟩
  | some e => exact ⟨fun d hd => .inl (hr.1 d (by simpa using hd)), fun h => by simp at h⟩

/-! ### Sign classes in the words of the statements (30_encoding.md R105) -/

/-- The class OT, as the statements name it. -/
theorem cls_eq_ot (c : Chr) : cls c = .ot ↔ foreignSign c = true := by
  cases c with
  | d n => simp [cls, foreignSign, isNum]; split <;> simp
  | minus => decide
  | period => decide
  | ignore => decide
  | other k => simp [cls, foreignSign, isNum, ordinary, plain]

/-- The class NZ, as the statements name it. -/
theorem cls_eq_nz (c : Chr) : cls c = .nz ↔ numericSign c = true := by
  cases c with
  | d n => by_cases hn : n = 0 <;> simp [cls, numericSign, isNum, hn]
  | minus => decide
  | period => decide
  | ignore => decide
  | other k => simp [cls, numericSign, isNum]

/-- The classes NZ and OT are the signs other than zero, minus and period. -/
theorem numericSign_or_foreignSign (c : Chr) : (numericSign c = true ∨ foreignSign c = true) ↔ ordinary c = false := by
  cases c with
  | d n => by_cases hn : n = 0 <;> simp [numericSign, foreignSign, ordinary, plain, isNum, hn]
  | minus => decide
  | period => decide
  | ignore => decide
  | other k => simp [numericSign, foreignSign, ordinary, plain, isNum]

/-- The signs under which 73 reads the magnitude (43_conditional_transfer.md R313). -/
theorem cls_eq_z_or_p (c : Chr) : (cls c = .z ∨ cls c = .p) ↔ (c = .d 0 ∨ c = .period) := by
  cases c with
  | d n => by_cases hn : n = 0 <;> simp [cls, hn]
  | minus => decide
  | period => decide
  | ignore => decide
  | other k => simp [cls]

/-- The signs that block 72 (R312), and half of every sign anomaly. -/
theorem cls_nz_or_ot (c : Chr) : (cls c = .nz ∨ cls c = .ot) ↔ ordinary c = false := by
  rw [cls_eq_nz, cls_eq_ot, numericSign_or_foreignSign]

/-- The signs that block a comparison (R302). -/
theorem blocks_eq (w : Word) : blocks w = foreignSign w.c12 := by
  rw [blocks, Bool.eq_iff_iff, decide_eq_true_iff, cls_eq_ot]

/-- The sign anomaly of multiplication and division (41_arithmetic_mul_div.md R201). -/
theorem mdAnomaly_eq (sa sm : Chr) : mdAnomaly sa sm = (!ordinary sa || !ordinary sm) := by
  rw [mdAnomaly, Bool.eq_iff_iff, decide_eq_true_iff, ← or_assoc, cls_nz_or_ot, cls_nz_or_ot]
  simp

/-- The sign anomaly of floating-point addition (40_arithmetic_add_sub.md R145). -/
theorem flPlan_isNone (sa sm : Chr) (sub : Bool) : (flPlan sa sm sub).isNone = (!ordinary sa || !ordinary sm) := by
  have h : flPlan sa sm sub = if mdAnomaly sa sm then none else some (signPlan sa sm sub) := by simp [flPlan, mdAnomaly]
  rw [h, ← mdAnomaly_eq]
  cases mdAnomaly sa sm <;> rfl

/-- The sign anomaly of double-precision fixed-point addition (R144). -/
theorem fxPlan_double_isNone (sa sm : Chr) (sub : Bool) :
    (fxPlan sa sm sub true).isNone = (!ordinary sa || !ordinary sm) := by
  rw [← mdAnomaly_eq, fxPlan, mdAnomaly]
  by_cases hot : cls sa = .ot ∨ cls sm = .ot
  · rcases hot with h | h <;> simp [h]
  · obtain ⟨ha, hm⟩ := not_or.1 hot
    by_cases hnz : cls sa = .nz ∨ cls sm = .nz
    · rcases hnz with h | h <;> simp [h, ha, hm]
    · obtain ⟨ha', hm'⟩ := not_or.1 hnz
      simp [ha, hm, ha', hm']

/-! ### The entries of the table -/

/-- D40: a word among `ws` has a magnitude position that is not numeric. -/
def nonNumericIn (ws : List Word) : Prop := ∃ w ∈ ws, (slice w 11 1).all isNum = false

/-- D40 over the words that are read. -/
theorem unstatedMagnitude_finds (ws : List Word) : Finds (unstatedMagnitude ws) (fun d => d = 40 ∧ nonNumericIn ws) :=
  (Finds.single 40).guarded.congr fun d => by simp [nonNumericIn, and_comm]

/-- D40, unless a sign ends the instruction before. -/
theorem unstatedUnder_finds (anomaly : Bool) (ws : List Word) :
    Finds (unstatedUnder anomaly ws) (fun d => d = 40 ∧ anomaly = false ∧ nonNumericIn ws) :=
  (unstatedMagnitude_finds ws).guarded.congr fun d => by simp [and_left_comm]

/-- Neither S-digit being numeric, the plan of a sum names no numeric sign (40_arithmetic_add_sub.md R142 (iv), (v)). -/
theorem signPlan_ne_numericSign (sa sm sg : Chr) (sub : Bool) : signPlan sa sm sub ≠ .numericSign sg := by
  unfold signPlan
  split
  · simp
  · split <;> simp

/-- The sign anomaly of single-precision fixed-point addition and subtraction (R142). -/
def fixedAnomaly (sa sm : Chr) : Bool := foreignSign sa || foreignSign sm || (numericSign sa && numericSign sm)

/-- `FxPlan` in single precision: the anomaly, then the one numeric sign, then the plan of ordinary signs (R142). -/
theorem fxPlan_single (sa sm : Chr) (sub : Bool) : fxPlan sa sm sub false =
    if fixedAnomaly sa sm then none
    else if numericSign sa then some (.numericSign sa)
    else if numericSign sm then some (.numericSign sm)
    else some (signPlan sa sm sub) := by
  simp only [fxPlan, cls_eq_ot, cls_eq_nz, fixedAnomaly]
  by_cases hot : foreignSign sa = true ∨ foreignSign sm = true
  · rcases hot with h | h <;> simp [h]
  · obtain ⟨ha, hm⟩ := not_or.1 hot
    simp [ha, hm]

/-- D38 comes before D40, and the sign anomaly before both. -/
theorem unstatedFixedSum_eq (a m : Word) : unstatedFixedSum a m =
    if fixedAnomaly a.c12 m.c12 then none
    else if numericSign a.c12 || numericSign m.c12 then some 38 else unstatedMagnitude [a, m] := by
  rw [unstatedFixedSum, fxPlan_single]
  by_cases h : fixedAnomaly a.c12 m.c12 = true
  · simp [h]
  by_cases ha : numericSign a.c12 = true
  · simp [h, ha]
  by_cases hm : numericSign m.c12 = true
  · simp [h, ha, hm]
  simp only [h, ha, hm]
  cases hp : signPlan a.c12 m.c12 false with
  | numericSign sg => exact absurd hp (signPlan_ne_numericSign _ _ _ _)
  | addMagnitudes sg => simp
  | algebraic sa sm => simp

/-- D40 and D38 of a single-precision fixed-point sum. -/
theorem unstatedFixedSum_finds (a m : Word) : Finds (unstatedFixedSum a m) (fun d =>
    (d = 40 ∧ fixedAnomaly a.c12 m.c12 = false ∧ nonNumericIn [a, m]) ∨
      (d = 38 ∧ fixedAnomaly a.c12 m.c12 = false ∧ (numericSign a.c12 = true ∨ numericSign m.c12 = true))) := by
  rw [unstatedFixedSum_eq]
  exact ((unstatedMagnitude_finds _).entry 38).guarded.congr fun d => by
    simp only [Bool.or_eq_true, Bool.not_eq_true]
    tauto

/-- Magnitudes read one after the other under the same signs are magnitudes read at once. -/
theorem unstatedUnder_append (anomaly : Bool) (ws vs : List Word) :
    (unstatedUnder anomaly ws).or (unstatedUnder anomaly vs) = unstatedUnder anomaly (ws ++ vs) := by
  cases anomaly with
  | true => rfl
  | false =>
    simp only [unstatedUnder, unstatedMagnitude, List.all_append]
    cases ws.all fun w => (slice w 11 1).all isNum <;> simp

/-- D44 for a product, where the signs are no anomaly. -/
theorem looseProduct_finds (sa sm : Chr) (a m : FlOperand) (n : Nat) :
    Finds (if mdAnomaly sa sm || (normalized n a.f && normalized n m.f) || isAbsoluteZero sa a || isAbsoluteZero sm m then none
        else some 44) (fun d => d = 44 ∧ mdAnomaly sa sm = false ∧ looseProduct n sa sm a.e a.f m.e m.f) :=
  (Finds.single 44).guarded.congr fun d => by
    simp only [normalized, isAbsoluteZero, looseProduct, zeroOperand, Bool.or_eq_true, Bool.and_eq_true, decide_eq_true_iff,
      not_or, not_and_or, Nat.not_le, Bool.not_eq_true]
    tauto

/-- D44 for a quotient, where the signs are no anomaly. -/
theorem looseQuotient_finds (sa sm : Chr) (a m : FlOperand) (n nd : Nat) :
    Finds (if mdAnomaly sa sm || !normalized nd m.f || normalized n a.f || isAbsoluteZero sa a then none else some 44)
      (fun d => d = 44 ∧ mdAnomaly sa sm = false ∧ looseQuotient n nd sa a.e a.f m.f) :=
  (Finds.single 44).guarded.congr fun d => by
    simp only [normalized, isAbsoluteZero, looseQuotient, zeroOperand, Bool.or_eq_true, Bool.not_eq_true', decide_eq_true_iff,
      decide_eq_false_iff_not, not_or, Nat.not_le, Nat.not_lt, Bool.not_eq_true]
    tauto

/-- The stepped modifier is out of its five digits (48_index_register.md R423). -/
theorem steppedDelta_isNone (sub : Bool) (w : Word) :
    (steppedDelta sub w).isNone = true ↔ if sub then ixDelta w < ixD w else 99999 < ixDelta w + ixD w := by
  cases sub with
  | false => simp [steppedDelta]
  | true => simp [steppedDelta]

/-- D28 and D27 of an index word that is to be stepped. -/
theorem unstatedStep_finds (sub : Bool) (w : Word) :
    Finds (unstatedStep sub w) (fun d => (d = 28 ∧ (slice w 12 1).all isNum = false) ∨
      (d = 27 ∧ if sub then ixDelta w < ixD w else 99999 < ixDelta w + ixD w)) :=
  ((Finds.empty.entry 27).entry 28).congr fun d => by rw [steppedDelta_isNone]; simp

/-- D30 of one address. -/
theorem sameRegion_finds (i : Installation) (a : Nat) :
    Finds (if sameRegion i a then none else some 30) (fun d => d = 30 ∧ sameRegion i a = false) :=
  (Finds.single 30).guarded.congr fun d => by simp [and_comm]

/-- D28 and D9 of the index register. -/
theorem unstatedIndex_finds (o : Fields) (s : State) :
    Finds (unstatedIndex o s) (fun d => (d = 28 ∧ o.b ≠ 0 ∧ (slice (s.reg o.b) 5 1).all isNum = false) ∨
      (d = 9 ∧ o.b ≠ 0 ∧ 99999 < o.m + ixDelta (s.reg o.b))) :=
  ((Finds.empty.entry 9).entry 28).guarded.congr fun d => by
    simp only [or_false, Bool.not_eq_true']
    tauto

/-- D30 of C, but for 99. -/
theorem unstatedNext_finds (i : Instr) (s : State) :
    Finds (unstatedNext i s) (fun d => d = 30 ∧ (∀ o, i ≠ .h o) ∧ sameRegion s.inst s.pc = false) := by
  by_cases hi : ∃ o, i = .h o
  · obtain ⟨o, rfl⟩ := hi
    exact .of_none fun d => by simp
  · rw [unstatedNext]
    · exact (sameRegion_finds _ _).congr fun d => by simpa using fun _ _ o ho => hi ⟨o, ho⟩
    · exact fun o ho => hi ⟨o, ho⟩

/-! ### The operands -/

/-- The clauses of `noResult` about the operands, but for the magnitudes, the effective address being `ea`. -/
def otherNoResult (i : Instr) (s : State) (ea d : Nat) : Prop :=
  (d = 30 ∧ (∃ o, i = .tr o) ∧ sameRegion s.inst ea = false) ∨
    (d = 38 ∧ (∃ o, i = .ax o ∨ i = .nx o) ∧ signStops i s ea = false ∧
      ∃ sa sm, examinedSigns i s ea = some (sa, sm) ∧ (numericSign sa = true ∨ numericSign sm = true)) ∨
    (d = 44 ∧ signStops i s ea = false ∧ looseOperands i s ea) ∨
    (d = 49 ∧ ∃ o, (i = .cx o ∨ i = .ccx o) ∧ ea % 100 < flexp (s.reg o.a)) ∨
    ∃ w down, stepsIndex i s = some (w, down) ∧
      ((d = 28 ∧ (slice w 12 1).all isNum = false) ∨
        (d = 27 ∧ if down then ixDelta w < ixD w else 99999 < ixDelta w + ixD w))

/-- All clauses of `noResult` about the operands. -/
def operandsNoResult (i : Instr) (s : State) (ea d : Nat) : Prop :=
  (d = 40 ∧ signStops i s ea = false ∧ nonNumericIn (magnitudesRead i s ea)) ∨ otherNoResult i s ea d

/-- The conditions of the rules in the order of the table. -/
theorem noResult_iff (i : Instr) (s : State) (d : Nat) : noResult i s d ↔
    (((d = 28 ∧ i.fields.b ≠ 0 ∧ (slice (s.reg i.fields.b) 5 1).all isNum = false) ∨
        (d = 9 ∧ i.fields.b ≠ 0 ∧ 99999 < i.fields.m + ixDelta (s.reg i.fields.b))) ∨
      (d = 30 ∧ (∀ o, i ≠ .h o) ∧ sameRegion s.inst s.pc = false)) ∨
    ∃ ea, effM s i.fields = .ok ea ∧ operandsNoResult i s ea d := by
  simp only [noResult, operandsNoResult, otherNoResult, nonNumericIn, or_assoc]
  simp only [or_left_comm (a := d = 40 ∧ _)]

/-- A table of the magnitudes, under the signs that stop the instruction, and of what else is looked for. -/
theorem Finds.of_parts {i : Instr} {s : State} {ea : Nat} {anomaly : Bool} {ws : List Word} {q : Option Nat}
    (hs : signStops i s ea = anomaly) (hw : magnitudesRead i s ea = ws) (hq : Finds q (otherNoResult i s ea)) :
    Finds ((unstatedUnder anomaly ws).or q) (operandsNoResult i s ea) := by
  subst hs hw
  exact (unstatedUnder_finds _ _).or hq

/-- The instructions that are refused for their magnitudes alone. -/
theorem Finds.of_magnitudes {i : Instr} {s : State} {ea : Nat} {anomaly : Bool} {ws : List Word}
    (hs : signStops i s ea = anomaly) (hw : magnitudesRead i s ea = ws) (h : ∀ d, ¬ otherNoResult i s ea d) :
    Finds (unstatedUnder anomaly ws) (operandsNoResult i s ea) := by
  simpa using Finds.of_parts hs hw (.of_none h)

/-- The instructions that read no magnitude. -/
theorem Finds.of_other {i : Instr} {s : State} {ea : Nat} {q : Option Nat} (hw : magnitudesRead i s ea = [])
    (h : Finds q (otherNoResult i s ea)) : Finds q (operandsNoResult i s ea) :=
  h.congr fun d => by simp [operandsNoResult, hw, nonNumericIn]

/-- The table of the operands, family by family: the signs that stop the instruction, the words it reads, and what else
refuses it. -/
theorem unstatedOperands_finds (i : Instr) (s : State) (ea : Nat) :
    Finds (unstatedOperands i s ea) (operandsNoResult i s ea) := by
  cases i with
  | ax o | nx o =>
    refine (unstatedFixedSum_finds _ _).congr fun d => or_congr Iff.rfl ?_
    simp [otherNoResult, signStops, examinedSigns, anomalousSigns, looseOperands, stepsIndex, fixedAnomaly]
  | a o | au o | n o | nu o | am o | aa o | nn o =>
    exact .of_magnitudes (flPlan_isNone _ _ _).symm rfl fun d => by simp [otherNoResult, looseOperands, stepsIndex]
  | aax o | nnx o =>
    exact .of_magnitudes (fxPlan_double_isNone _ _ _).symm rfl fun d => by simp [otherNoResult, looseOperands, stepsIndex]
  | mxr o | mxe o | dx o | dxe o | mmx o | ddx o =>
    exact .of_magnitudes (mdAnomaly_eq _ _).symm rfl fun d => by simp [otherNoResult, looseOperands, stepsIndex]
  | mr o | m o | mu o | me o | mm o =>
    refine .of_parts (mdAnomaly_eq _ _).symm rfl ((looseProduct_finds _ _ _ _ _).congr fun d => ?_)
    simp [otherNoResult, signStops, examinedSigns, anomalousSigns, looseOperands, stepsIndex, flOperand, flOperand2,
      mdAnomaly_eq]
  | dr o | dur o | dd o | dse o =>
    refine .of_parts (mdAnomaly_eq _ _).symm rfl ((looseQuotient_finds _ _ _ _ _ _).congr fun d => ?_)
    simp [otherNoResult, signStops, examinedSigns, anomalousSigns, looseOperands, stepsIndex, flOperand, flOperand2,
      mdAnomaly_eq]
  | te o | tg o =>
    refine .of_magnitudes ?_ rfl fun d => by simp [otherNoResult, looseOperands, stepsIndex]
    simp [signStops, blocks_eq]
  | tz o =>
    refine .of_magnitudes ?_ rfl fun d => by simp [otherNoResult, looseOperands, stepsIndex]
    simp [signStops, cls_nz_or_ot]
  | tgz o =>
    have hother : ∀ d, ¬ otherNoResult (.tgz o) s ea d := by simp [otherNoResult, looseOperands, stepsIndex]
    simp only [unstatedOperands, cls_eq_z_or_p]
    by_cases hc : (s.reg o.a).c12 = .d 0 ∨ (s.reg o.a).c12 = .period
    · rw [decide_eq_true hc]
      exact .of_magnitudes rfl (by simp [magnitudesRead, hc]) hother
    · rw [decide_eq_false hc]
      exact .of_other (by simp [magnitudesRead, hc]) (.of_none hother)
  | ttg o =>
    have hs : signStops (.ttg o) s ea = (blocks (s.reg o.a) || blocks (s.reg (o.a + 1)) || blocks (s.reg (o.a + 2)) ||
        blocks (s.reg (o.a + 3))) := by simp [signStops, blocks_eq]
    have hother : ∀ d, ¬ otherNoResult (.ttg o) s ea d := by simp [otherNoResult, looseOperands, stepsIndex]
    simp only [unstatedOperands, unstatedCompare]
    by_cases hc : cmpWords (s.reg o.a) (s.reg (o.a + 2)) = .eq
    · rw [if_pos hc, unstatedUnder_append]
      exact .of_magnitudes hs (by simp [magnitudesRead, hc]) hother
    · rw [if_neg hc, Option.or_none]
      exact .of_magnitudes hs (by simp [magnitudesRead, hc]) hother
  | cx o | ccx o =>
    refine .of_parts (anomaly := false) rfl rfl ((Finds.empty.entry 49).congr fun d => ?_)
    simp [otherNoResult, looseOperands, stepsIndex, countOf]
  | c o | cc o =>
    exact .of_magnitudes (anomaly := false) rfl rfl fun d => by simp [otherNoResult, looseOperands, stepsIndex]
  | bit o | bic o | bi o | bdt o | bdc o | bd o =>
    exact .of_other rfl ((unstatedStep_finds _ _).congr fun d => by simp [otherNoResult, looseOperands, stepsIndex])
  | tr o =>
    exact .of_other rfl ((sameRegion_finds _ _).congr fun d => by simp [otherNoResult, looseOperands, stepsIndex])
  | _ => exact .of_other rfl (.of_none fun d => by simp [otherNoResult, looseOperands, stepsIndex])

/-- The whole table. -/
theorem unstated_finds (i : Instr) (s : State) : Finds (unstated i s) (noResult i s) := by
  refine Finds.congr (((unstatedIndex_finds i.fields s).or (unstatedNext_finds i s)).or ?_) fun d => (noResult_iff i s d).symm
  cases h : effM s i.fields with
  | ok ea => exact (unstatedOperands_finds i s ea).congr fun d => by simp
  | error e => exact .of_none fun d => by simp

/-- Settles O50: the index register, the next address and the operands are the three parts of the table, and each finds what
the rules say of it. -/
theorem unstatedResults : Obligations.UnstatedResults := unstated_finds

end Sys2Proof.Machine
end

section
/-! What an instruction answers (30_encoding.md R98, 10_state.md R24 to R30): exactly where it goes on, and in what kind of state.
Each shape of a meaning has one lemma that gives both, assembled from one rule per part; the 76 instructions are then told apart
once, and the statements about all of them need that one theorem. -/

namespace Sys2Proof.Machine
open Sys2Proof

/-! ### The parts of a meaning -/

section
variable {s t : State}

/-- A part that completes under `c`, and then with `v`, followed by the rest of the meaning. -/
theorem bind_eq_ok_of {α : Type} {r : Res α} {c : Prop} {v : α} {f : α → Res State}
    (h : ∀ a, r = .ok a ↔ c ∧ a = v) : (r >>= f) = .ok t ↔ c ∧ f v = .ok t := by
  simp only [res_bind_eq_ok, h]
  exact ⟨fun ⟨_, ⟨hc, rfl⟩, ht⟩ => ⟨hc, ht⟩, fun ⟨hc, ht⟩ => ⟨v, ⟨hc, rfl⟩, ht⟩⟩

theorem getReg_bind_eq_ok {r : Nat} {f : Word → Res State} :
    (getReg s r >>= f) = .ok t ↔ s.hasReg r = true ∧ f (s.reg r) = .ok t := bind_eq_ok_of fun _ => getReg_eq_ok

theorem getAcc_bind_eq_ok {r : Nat} {f : Word → Res State} :
    (getAcc s r >>= f) = .ok t ↔ s.hasReg r = true ∧ f (s.reg r) = .ok t := bind_eq_ok_of fun _ => getAcc_eq_ok

theorem regRead_bind_eq_ok {r : Nat} {f : Word → Res State} :
    (regRead s r >>= f) = .ok t ↔ canSupply s r = true ∧ f (s.reg r) = .ok t :=
  bind_eq_ok_of fun _ => by simp [regRead_eq_ok, canSupply]

theorem getAccPair_bind_eq_ok {r : Nat} {f : Word × Word → Res State} :
    (getAccPair s r >>= f) = .ok t ↔ hasPair s r = true ∧ f (s.reg r, s.reg (r + 1)) = .ok t :=
  bind_eq_ok_of fun _ => by simp [getAccPair_eq_ok, hasPair]

theorem read1_bind_eq_ok {a : Nat} {f : Word → Res State} :
    (read1 s a >>= f) = .ok t ↔ readable s a = true ∧ f (s.load a) = .ok t :=
  bind_eq_ok_of fun _ => by simp [read1_eq_ok, readable]

theorem read2_bind_eq_ok {a : Nat} {f : Word × Word → Res State} :
    (read2 s a >>= f) = .ok t ↔ sameRegion s.inst a = true ∧ f (s.load a, s.load (a + 1)) = .ok t :=
  bind_eq_ok_of fun _ => read2_eq_ok

theorem write1_bind_eq_ok {a : Nat} {w : Word} {f : State → Res State} :
    (write1 s a w >>= f) = .ok t ↔ writable s a = true ∧ f (s.store a w) = .ok t := bind_eq_ok_of fun _ => write1_eq_ok

theorem write2_bind_eq_ok {a : Nat} {h l : Word} {f : State → Res State} :
    (write2 s a h l >>= f) = .ok t ↔ sameRegion s.inst a = true ∧ f ((s.store a h).store (a + 1) l) = .ok t :=
  bind_eq_ok_of fun _ => write2_eq_ok

/-- A meaning that is refused unless `c` holds. -/
theorem guard_eq_ok {c : Bool} {u : State} {e : Stop} :
    (if c then .ok u else .error e : Res State) = .ok t ↔ c = true ∧ t = u := by
  cases c <;> simp [eq_comm]

/-- The last part of a meaning. -/
theorem ok_eq_ok_iff {u : State} : (.ok u : Res State) = .ok t ↔ t = u := by rw [Except.ok.injEq, eq_comm]

end

/-! ### The shapes of the meanings -/

/-- The outcome `r` is a next state exactly when the effective address of `o` can be formed and what is named is `there`, and
then it is the state `u`. -/
def Answers (r : Out) (s : State) (o : Fields) (there : Nat → Bool) (u : Nat → State) : Prop :=
  ∀ t, r = .next t ↔ ∃ ea, effM s o = .ok ea ∧ there ea = true ∧ t = u ea

section
variable (o : Fields) (s : State)

/-- A meaning that starts with the effective address, by what its rest `k` does. -/
theorem answers_of_rest {k : Nat → Res State} {there : Nat → Bool} {u : Nat → State}
    (h : ∀ ea t, k ea = .ok t ↔ there ea = true ∧ t = u ea) : Answers (outcome (effM s o >>= k)) s o there u := by
  intro t
  simp only [outcome_eq_next, res_bind_eq_ok, h]

/-! The arithmetic shapes and the operations on A alone, from Laws/Ops. -/

theorem arithA_answers (f : Word → Word → Nat → Result1) :
    Answers (outcome (arithA f o s)) s o (fun ea => readable s ea && s.hasReg o.a)
      (fun ea => s.deposit1 o.a (f (s.reg o.a) (s.load ea) s.tick)) := by
  simp [Answers, outcome_eq_next, arithA_eq_ok, readable, and_assoc]

theorem arithUp_answers (f : Word → Word → Nat → Result1) :
    Answers (outcome (arithUp f o s)) s o (fun ea => readable s ea && hasPair s o.a)
      (fun ea => s.deposit1 (o.a + 1) (f (s.reg o.a) (s.load ea) s.tick)) := by
  simp [Answers, outcome_eq_next, arithUp_eq_ok, readable, hasPair, and_assoc]

theorem arithExt_answers (f : Word → Word → Nat → Result2) :
    Answers (outcome (arithExt f o s)) s o (fun ea => readable s ea && hasPair s o.a)
      (fun ea => s.deposit2 o.a (f (s.reg o.a) (s.load ea) s.tick)) := by
  simp [Answers, outcome_eq_next, arithExt_eq_ok, readable, hasPair, and_assoc]

theorem arithPair_answers (f : Word × Word → Word × Word → Nat → Result2) :
    Answers (outcome (arithPair f o s)) s o (fun ea => sameRegion s.inst ea && hasPair s o.a)
      (fun ea => s.deposit2 o.a (f (s.reg o.a, s.reg (o.a + 1)) (s.load ea, s.load (ea + 1)) s.tick)) := by
  simp [Answers, outcome_eq_next, arithPair_eq_ok, hasPair, and_assoc]

theorem arithPairBy_answers (f : Word × Word → Word → Nat → Result2) :
    Answers (outcome (arithPairBy f o s)) s o (fun ea => readable s ea && hasPair s o.a)
      (fun ea => s.deposit2 o.a (f (s.reg o.a, s.reg (o.a + 1)) (s.load ea) s.tick)) := by
  simp [Answers, outcome_eq_next, arithPairBy_eq_ok, readable, hasPair, and_assoc]

theorem onAcc_answers (f : Nat → Word → Nat → Result1) :
    Answers (outcome (onAcc f o s)) s o (fun _ => s.hasReg o.a)
      (fun ea => s.deposit1 o.a (f (countOf ea) (s.reg o.a) s.tick)) := by
  simp [Answers, outcome_eq_next, onAcc_eq_ok]

theorem onAccPair_answers (f : Nat → Word × Word → Nat → Result2) :
    Answers (outcome (onAccPair f o s)) s o (fun _ => hasPair s o.a)
      (fun ea => s.deposit2 o.a (f (countOf ea) (s.reg o.a, s.reg (o.a + 1)) s.tick)) := by
  simp [Answers, outcome_eq_next, onAccPair_eq_ok, hasPair]

/-! Data transfer (42_data_transfer.md) and the extracts under a pattern (46_extract.md). -/

theorem storeOne_answers (f : Word → Nat → Word) (bad : Word → Bool) :
    Answers (outcome (storeOne f bad o s)) s o (fun ea => writable s ea && canSupply s o.a)
      (fun ea => (s.store ea (f (s.reg o.a) s.tick)).next.raiseContingency (negRaised (bad (s.reg o.a)))) :=
  answers_of_rest o s fun ea t => by
    simp only [regRead_bind_eq_ok, write1_bind_eq_ok, ok_eq_ok_iff, Bool.and_eq_true, and_assoc, and_left_comm]

theorem storeTwo_answers (f : Word → Nat → Nat → Word) (bad : Word → Bool) :
    Answers (outcome (storeTwo f bad o s)) s o (fun ea => sameRegion s.inst ea && hasPair s o.a)
      (fun ea => ((s.store ea (f (s.reg o.a) s.tick 0)).store (ea + 1)
        (f (s.reg (o.a + 1)) s.tick 1)).next.raiseContingency
          (negRaised (bad (s.reg o.a) || bad (s.reg (o.a + 1))))) :=
  answers_of_rest o s fun ea t => by
    simp only [getAccPair_bind_eq_ok, write2_bind_eq_ok, ok_eq_ok_iff, Bool.and_eq_true, and_assoc, and_left_comm]

theorem execF_answers :
    Answers (execF o s) s o (fun ea => readable s ea && s.hasReg o.a) (fun ea => (s.setReg o.a (s.load ea)).next) :=
  answers_of_rest o s fun ea t => by
    simp only [read1_bind_eq_ok, getAcc_bind_eq_ok, ok_eq_ok_iff, Bool.and_eq_true, and_assoc]

theorem execFf_answers :
    Answers (execFf o s) s o (fun ea => sameRegion s.inst ea && hasPair s o.a)
      (fun ea => (s.setPair o.a (s.load ea) (s.load (ea + 1))).next) :=
  answers_of_rest o s fun ea t => by
    simp only [read2_bind_eq_ok, getAccPair_bind_eq_ok, ok_eq_ok_iff, Bool.and_eq_true, and_assoc]

theorem extractPart_answers (hi lo : Nat) :
    Answers (outcome (extractPart hi lo o s)) s o (fun ea => readable s ea && s.hasReg o.a)
      (fun ea => (s.setReg o.a (splice (s.reg o.a) hi lo (slice (s.load ea) hi lo))).next) :=
  answers_of_rest o s fun ea t => by
    simp only [read1_bind_eq_ok, getAcc_bind_eq_ok, ok_eq_ok_iff, Bool.and_eq_true, and_assoc]

theorem extractFrom_answers (src : Nat) :
    Answers (outcome (extractFrom src o s)) s o (fun ea => readable s ea && s.hasReg o.a && s.hasReg src)
      (fun ea => (s.setReg o.a (extract (s.load ea) (s.reg src) (s.reg o.a))).next) :=
  answers_of_rest o s fun ea t => by
    simp only [read1_bind_eq_ok, getAcc_bind_eq_ok, getReg_bind_eq_ok, ok_eq_ok_iff, Bool.and_eq_true, and_assoc]

theorem execSlj_answers :
    Answers (execSlj o s) s o (fun ea => writable s ea) (fun ea => (s.store ea (sljWord s ea)).next) :=
  answers_of_rest o s fun ea t => by simp only [write1_bind_eq_ok, ok_eq_ok_iff]

/-! Transfers of control (43_conditional_transfer.md, 44_unconditional_transfer.md) and index registers
(48_index_register.md). -/

theorem testTwo_answers (p : Word → Word → Bool) :
    Answers (outcome (testTwo p o s)) s o (fun _ => hasPair s o.a)
      (fun ea => condXfer s ea (if blocks (s.reg o.a) || blocks (s.reg (o.a + 1)) then .blocked
        else .ofBool (p (s.reg o.a) (s.reg (o.a + 1))))) :=
  answers_of_rest o s fun ea t => by simp only [getAccPair_bind_eq_ok, ok_eq_ok_iff]

theorem testOne_answers (c : Word → Cond) :
    Answers (outcome (testOne c o s)) s o (fun _ => canSupply s o.a) (fun ea => condXfer s ea (c (s.reg o.a))) :=
  answers_of_rest o s fun ea t => by simp only [regRead_bind_eq_ok, ok_eq_ok_iff]

theorem testFour_answers (p : Word × Word → Word × Word → Bool) :
    Answers (outcome (testFour p o s)) s o (fun _ => hasPair s o.a && hasPair s (o.a + 2))
      (fun ea => condXfer s ea
        (if blocks (s.reg o.a) || blocks (s.reg (o.a + 1)) || blocks (s.reg (o.a + 2)) || blocks (s.reg (o.a + 3)) then .blocked
          else .ofBool (p (s.reg o.a, s.reg (o.a + 1)) (s.reg (o.a + 2), s.reg (o.a + 3))))) :=
  answers_of_rest o s fun ea t => by
    simp only [getAccPair_bind_eq_ok, getReg_bind_eq_ok, ok_eq_ok_iff, hasPair, Bool.and_eq_true, and_assoc]

theorem indexBranch_answers (sub : Bool) (taken : Nat → Bool) :
    Answers (outcome (indexBranch sub taken o s)) s o (fun _ => s.hasReg o.a)
      (fun ea => (s.setReg o.a (countIndex sub (s.reg o.a))).branch (taken (reducedCount (s.reg o.a))) ea) :=
  answers_of_rest o s fun ea t => by simp only [getAcc_bind_eq_ok, ok_eq_ok_iff]

theorem indexStep_answers (sub : Bool) :
    Answers (outcome (indexStep sub o s)) s o (fun _ => s.hasReg o.a)
      (fun _ => (s.setReg o.a (stepIndex sub (s.reg o.a))).next) :=
  answers_of_rest o s fun ea t => by simp only [getAcc_bind_eq_ok, ok_eq_ok_iff]

theorem execT_answers : Answers (execT o s) s o (fun _ => true) (fun ea => s.branch true ea) :=
  answers_of_rest o s fun ea t => by simp only [ok_eq_ok_iff, true_and]

theorem execTr_answers :
    Answers (execTr o s) s o (fun ea => writable s ea)
      (fun ea => (s.store ea (transferWord (succAddr s.inst s.pc))).branch true (succAddr s.inst ea)) :=
  answers_of_rest o s fun ea t => by simp only [write1_bind_eq_ok, ok_eq_ok_iff]

theorem execTb_answers :
    Answers (execTb o s) s o (fun _ => s.hasReg o.a)
      (fun ea => (s.setReg o.a (splice (s.reg o.a) 5 1 (dig 5 s.pc))).branch true ea) :=
  answers_of_rest o s fun ea t => by simp only [getAcc_bind_eq_ok, ok_eq_ok_iff]

/-! Display registers, flip-flops, skip and stop (49_display_misc.md). -/

theorem displayFetch_answers (f : State → Word) :
    Answers (outcome (displayFetch f o s)) s o (fun _ => s.hasReg o.a)
      (fun ea => if s.interlock then { s.setReg o.a (f s) with connect := false, interlock := false }.branch false ea
        else s.branch true ea) :=
  answers_of_rest o s fun ea t => by
    rw [getAcc_bind_eq_ok]
    cases s.interlock <;> simp only [ok_eq_ok_iff, if_true, if_false, Bool.false_eq_true]

theorem displayStore_answers (f : Word → State → State) :
    Answers (outcome (displayStore f o s)) s o (fun _ => canSupply s o.a)
      (fun ea => if s.interlock then s.branch true ea else (f (s.reg o.a) s).branch false ea) :=
  answers_of_rest o s fun ea t => by
    rw [regRead_bind_eq_ok]
    cases s.interlock <;> simp only [ok_eq_ok_iff, if_true, if_false, Bool.false_eq_true]

theorem execSk_answers : Answers (execSk o s) s o (fun _ => true) (fun _ => s.next) :=
  answers_of_rest o s fun ea t => by simp only [ok_eq_ok_iff, true_and]

theorem execH_answers : Answers (execH o s) s o (fun _ => true) (fun _ => { s with stopped := true }) :=
  answers_of_rest o s fun ea t => by simp only [ok_eq_ok_iff, true_and]

/-- The marks of the table of B-6 (10_state.md R34) are the flip-flop operations the statements permit. -/
theorem marksOf_eq : marksOf o.a = ⟨permitted (.tf o), permitted (.rf o), permitted (.sf o)⟩ := by
  have listed : ∀ k ≤ 99, marksOf k = ⟨permitted (.tf ⟨.untraced, k, 0, 0⟩), permitted (.rf ⟨.untraced, k, 0, 0⟩),
      permitted (.sf ⟨.untraced, k, 0, 0⟩)⟩ := by decide
  by_cases h : o.a ≤ 99
  · exact listed o.a h
  · have rows : ∀ r ∈ flagTable, r.hi ≤ 99 := by decide
    have unlisted : flagTable.find? (fun r => decide (r.lo ≤ o.a) && decide (o.a ≤ r.hi)) = none := by
      rw [List.find?_eq_none]
      intro r hr
      have := rows r hr
      simp only [Bool.and_eq_true, decide_eq_true_iff]
      omega
    rw [marksOf, unlisted, FlagMarks.mk.injEq]
    refine ⟨?_, ?_, ?_⟩ <;> · rw [permitted, eq_comm, decide_eq_false_iff_not]; omega

theorem execTf_answers :
    Answers (execTf o s) s o (fun _ => permitted (.tf o)) (fun ea => condXfer s ea (.ofBool (s.flag o.a))) :=
  answers_of_rest o s fun ea t => by rw [marksOf_eq]; exact guard_eq_ok

theorem execRf_answers :
    Answers (execRf o s) s o (fun _ => permitted (.rf o)) (fun _ => (s.resetFlag o.a).next) :=
  answers_of_rest o s fun ea t => by rw [marksOf_eq]; exact guard_eq_ok

theorem execSf_answers :
    Answers (execSf o s) s o (fun _ => permitted (.sf o)) (fun _ => (s.putFlag o.a true).next) :=
  answers_of_rest o s fun ea t => by rw [marksOf_eq]; exact guard_eq_ok

end

/-! ### What an instruction may write -/

/-- `u` is `s` after what instruction `i` may write, its effective address being `ea`, before C, C2 and the contingencies. -/
inductive Writes (i : Instr) (s : State) (ea : Nat) : State → Prop
  | nothing : Writes i s ea s
  | register (r : Nat) (w : Word) (hr : writtenRegs i = [r]) : Writes i s ea (s.setReg r w)
  | pair (r : Nat) (h l : Word) (hr : writtenRegs i = [r, r + 1]) : Writes i s ea (s.setPair r h l)
  | word (w : Word) (hn : storedWords i = 1) : Writes i s ea (s.store ea w)
  | words (h l : Word) (hn : storedWords i = 2) : Writes i s ea ((s.store ea h).store (ea + 1) l)
  | fromDisplay (o : Fields) (w : Word) (hi : i = .fv o ∨ i = .fvk o) :
      Writes i s ea { s.setReg o.a w with connect := false, interlock := false }
  | display5 (o : Fields) (v : Five) (hi : i = .sv o) : Writes i s ea (s.putDisplay5 v)
  | display12 (o : Fields) (w : Word) (hi : i = .svk o) : Writes i s ea (s.putDisplay12 w)
  | resetFlag (o : Fields) (hi : i = .rf o) : Writes i s ea (s.resetFlag o.a)
  | setFlag (o : Fields) (hi : i = .sf o) : Writes i s ea (s.putFlag o.a true)

/-- Instructions outside XFER that step C: all but 99 (10_state.md R27, R30). -/
def Steps (i : Instr) : Prop := inXfer i = false ∧ ∀ o, i ≠ .h o

/-- How an instruction that goes on ends: what it writes, then C and C2 (10_state.md R27 to R30), then the contingencies
(60_exceptions.md R473). -/
inductive Ends (i : Instr) (s : State) (ea : Nat) : State → Prop
  | inSequence {u : State} (ks : List Nat) (hi : Steps i) (hu : Writes i s ea u) :
      Ends i s ea (u.next.raiseContingency ks)
  | transfer {u : State} (hi : inXfer i = true) (hu : Writes i s ea u) :
      Ends i s ea (u.branch true (transferTarget i s ea))
  | noTransfer {u : State} (ks : List Nat) (hi : inXfer i = true) (hu : Writes i s ea u) :
      Ends i s ea ((u.branch false ea).raiseContingency ks)
  | stop (o : Fields) (hi : i = .h o) : Ends i s ea { s with stopped := true }

section
variable {i : Instr} {s : State} {ea : Nat}

theorem Ends.of_branch {u : State} (taken : Bool) (hi : inXfer i = true) (ht : transferTarget i s ea = ea)
    (hu : Writes i s ea u) : Ends i s ea (u.branch taken ea) := by
  cases taken with
  | false => exact .noTransfer [] hi hu
  | true => simpa only [ht] using Ends.transfer hi hu

/-- Every outcome of a test (43_conditional_transfer.md R300, R302). -/
theorem Ends.of_condXfer (c : Cond) (hi : inXfer i = true) (ht : transferTarget i s ea = ea) :
    Ends i s ea (condXfer s ea c) := by
  cases c with
  | yes => exact .of_branch true hi ht .nothing
  | no => exact .of_branch false hi ht .nothing
  | blocked => exact .noTransfer _ hi .nothing

end

/-- Every instruction goes on exactly when its effective address can be formed and its operands are there, and in a state that
is one of its ends. -/
theorem exec_answers (i : Instr) (s : State) :
    ∃ u, Answers (exec i s) s i.fields (operandsThere i s) u ∧ ∀ ea, Ends i s ea (u ea) := by
  cases i with
  | ax o | a o | am o | nx o | n o | mxr o | mr o | m o | dx o | dr o =>
    exact ⟨_, arithA_answers o s _, fun ea => .inSequence _ ⟨rfl, nofun⟩ (.register _ _ rfl)⟩
  | au o | nu o | mu o | dur o =>
    exact ⟨_, arithUp_answers o s _, fun ea => .inSequence _ ⟨rfl, nofun⟩ (.register _ _ rfl)⟩
  | mxe o | me o | dxe o =>
    exact ⟨_, arithExt_answers o s _, fun ea => .inSequence _ ⟨rfl, nofun⟩ (.pair _ _ _ rfl)⟩
  | aax o | aa o | nnx o | nn o | mmx o | mm o | ddx o | dd o =>
    exact ⟨_, arithPair_answers o s _, fun ea => .inSequence _ ⟨rfl, nofun⟩ (.pair _ _ _ rfl)⟩
  | dse o => exact ⟨_, arithPairBy_answers o s _, fun ea => .inSequence _ ⟨rfl, nofun⟩ (.pair _ _ _ rfl)⟩
  | cx o | c o | pr o | pl o =>
    exact ⟨_, onAcc_answers o s _, fun ea => .inSequence _ ⟨rfl, nofun⟩ (.register _ _ rfl)⟩
  | ccx o | cc o | ppr o | ppl o | ppc o =>
    exact ⟨_, onAccPair_answers o s _, fun ea => .inSequence _ ⟨rfl, nofun⟩ (.pair _ _ _ rfl)⟩
  | s o | sn o | sm o => exact ⟨_, storeOne_answers o s _ _, fun ea => .inSequence _ ⟨rfl, nofun⟩ (.word _ rfl)⟩
  | ss o | ssn o | ssm o => exact ⟨_, storeTwo_answers o s _ _, fun ea => .inSequence _ ⟨rfl, nofun⟩ (.words _ _ rfl)⟩
  | f o => exact ⟨_, execF_answers o s, fun ea => .inSequence [] ⟨rfl, nofun⟩ (.register _ _ rfl)⟩
  | ff o => exact ⟨_, execFf_answers o s, fun ea => .inSequence [] ⟨rfl, nofun⟩ (.pair _ _ _ rfl)⟩
  | eop o | ea o | eb o | eab o | em o =>
    exact ⟨_, extractPart_answers o s _ _, fun ea => .inSequence [] ⟨rfl, nofun⟩ (.register _ _ rfl)⟩
  | el o => exact ⟨_, extractFrom_answers o s _, fun ea => .inSequence [] ⟨rfl, nofun⟩ (.register _ _ rfl)⟩
  | eu o =>
    have h := extractFrom_answers o s (o.a + 1)
    simp only [Bool.and_assoc] at h
    exact ⟨_, h, fun ea => .inSequence [] ⟨rfl, nofun⟩ (.register _ _ rfl)⟩
  | slj o => exact ⟨_, execSlj_answers o s, fun ea => .inSequence [] ⟨rfl, nofun⟩ (.word _ rfl)⟩
  | te o | tg o => exact ⟨_, testTwo_answers o s _, fun ea => .of_condXfer _ rfl rfl⟩
  | tz o | tgz o | tlz o => exact ⟨_, testOne_answers o s _, fun ea => .of_condXfer _ rfl rfl⟩
  | tte o | ttg o => exact ⟨_, testFour_answers o s _, fun ea => .of_condXfer _ rfl rfl⟩
  | tf o => exact ⟨_, execTf_answers o s, fun ea => .of_condXfer _ rfl rfl⟩
  | bit o | bdt o | bic o | bdc o =>
    exact ⟨_, indexBranch_answers o s _ _, fun ea => .of_branch _ rfl rfl (.register _ _ rfl)⟩
  | bi o | bd o => exact ⟨_, indexStep_answers o s _, fun ea => .inSequence [] ⟨rfl, nofun⟩ (.register _ _ rfl)⟩
  | t o => exact ⟨_, execT_answers o s, fun ea => .of_branch _ rfl rfl .nothing⟩
  | tr o => exact ⟨_, execTr_answers o s, fun ea => .transfer rfl (.word _ rfl)⟩
  | tb o => exact ⟨_, execTb_answers o s, fun ea => .of_branch _ rfl rfl (.register _ _ rfl)⟩
  | fv o | fvk o =>
    refine ⟨_, displayFetch_answers o s _, fun ea => ?_⟩
    cases s.interlock with
    | true => exact .of_branch false rfl rfl (.fromDisplay o _ (by simp))
    | false => exact .of_branch true rfl rfl .nothing
  | sv o =>
    refine ⟨_, displayStore_answers o s _, fun ea => ?_⟩
    cases s.interlock with
    | true => exact .of_branch true rfl rfl .nothing
    | false => exact .of_branch false rfl rfl (.display5 o _ rfl)
  | svk o =>
    refine ⟨_, displayStore_answers o s _, fun ea => ?_⟩
    cases s.interlock with
    | true => exact .of_branch true rfl rfl .nothing
    | false => exact .of_branch false rfl rfl (.display12 o _ rfl)
  | sk o => exact ⟨_, execSk_answers o s, fun ea => .inSequence [] ⟨rfl, nofun⟩ .nothing⟩
  | rf o => exact ⟨_, execRf_answers o s, fun ea => .inSequence [] ⟨rfl, nofun⟩ (.resetFlag o rfl)⟩
  | sf o => exact ⟨_, execSf_answers o s, fun ea => .inSequence [] ⟨rfl, nofun⟩ (.setFlag o rfl)⟩
  | h o => exact ⟨_, execH_answers o s, fun ea => .stop o rfl⟩

end Sys2Proof.Machine
end

section
/-! Frames over all 76 instructions (10_state.md R24 to R44), read off the ways an instruction can end. -/

namespace Sys2Proof.Machine
open Sys2Proof

/-! ### What a write leaves -/

/-- A register written leaves every other address alone, whether it is installed or not. -/
theorem load_setReg_other (s : State) {r a : Nat} (w : Word) (h : a ≠ 99900 + r) : (s.setReg r w).load a = s.load a := by
  unfold State.load
  simp only [State.setReg_inst, State.setReg_mem]
  cases hreg : region s.inst a with
  | fast q =>
    obtain ⟨ha, -, -⟩ := region_fast.1 hreg
    exact reg_setReg_other s w (by omega)
  | core => rfl
  | constant => rfl
  | unmapped => rfl

section
variable {i : Instr} {s u : State} {ea : Nat}

/-- A fast register that the instruction does not name, and does not store to as 999rr, keeps its word (10_state.md R24). -/
theorem Writes.reg_eq (hu : Writes i s ea u) {r : Nat} (hr : r ∉ writtenRegs i)
    (hn : ¬ (ea ≤ 99900 + r ∧ 99900 + r < ea + storedWords i)) : u.reg r = s.reg r := by
  cases hu with
  | nothing => rfl
  | register q w h => exact reg_setReg_other s w (by simpa [h] using hr)
  | pair q h l hq =>
    obtain ⟨h0, h1⟩ : r ≠ q ∧ r ≠ q + 1 := by simpa [hq] using hr
    rw [State.setPair, reg_setReg_other _ _ h1, reg_setReg_other _ _ h0]
  | word w h => exact reg_store_other _ _ _ _ (by omega)
  | words h l hw => rw [reg_store_other _ _ _ _ (by omega), reg_store_other _ _ _ _ (by omega)]
  | fromDisplay o w h =>
    have hne : r ≠ o.a := by rcases h with rfl | rfl <;> simpa [writtenRegs] using hr
    rw [← reg_setReg_other s w hne]
    exact reg_congr rfl r
  | display5 o v h => exact reg_congr rfl r
  | display12 o w h => exact reg_congr rfl r
  | resetFlag o h => exact reg_congr (by simp) r
  | setFlag o h => exact reg_congr rfl r

/-- An address that the instruction does not store at, and that is not the 999rr of a register it names, keeps its word
(20_memory.md R68). -/
theorem Writes.load_eq (hu : Writes i s ea u) {a : Nat} (ha : ∀ r ∈ writtenRegs i, a ≠ 99900 + r)
    (hn : ¬ (ea ≤ a ∧ a < ea + storedWords i)) : u.load a = s.load a := by
  cases hu with
  | nothing => rfl
  | register q w h => exact load_setReg_other s w (ha q (by simp [h]))
  | pair q h l hq =>
    rw [State.setPair, load_setReg_other _ _ (ha (q + 1) (by simp [hq])), load_setReg_other _ _ (ha q (by simp [hq]))]
  | word w h => exact load_store_other _ _ _ _ (by omega)
  | words h l hw => rw [load_store_other _ _ _ _ (by omega), load_store_other _ _ _ _ (by omega)]
  | fromDisplay o w h =>
    have hne : a ≠ 99900 + o.a := ha o.a (by rcases h with rfl | rfl <;> simp [writtenRegs])
    rw [← load_setReg_other s w hne]
    exact load_congr rfl rfl rfl a
  | display5 o v h => exact load_congr rfl rfl rfl a
  | display12 o w h => exact load_congr rfl rfl rfl a
  | resetFlag o h => exact load_congr (by simp) (by simp) (by simp) a
  | setFlag o h => exact load_congr rfl rfl rfl a

/-- The display registers are written by 29 and 39 alone (10_state.md R40). -/
theorem Writes.displays_eq (hu : Writes i s ea u) (h29 : ∀ o, i ≠ .sv o) (h39 : ∀ o, i ≠ .svk o) :
    u.vd5 = s.vd5 ∧ u.vd12 = s.vd12 := by
  cases hu with
  | display5 o v h => exact absurd h (h29 o)
  | display12 o w h => exact absurd h (h39 o)
  | _ => simp

/-- Interlock and Connect are written by 09 and 19 alone (R41, R42). -/
theorem Writes.interlock_eq (hu : Writes i s ea u) (h09 : ∀ o, i ≠ .fv o) (h19 : ∀ o, i ≠ .fvk o) :
    u.interlock = s.interlock ∧ u.connect = s.connect := by
  cases hu with
  | fromDisplay o w h => exact absurd h (not_or.2 ⟨h09 o, h19 o⟩)
  | _ => simp

/-- `t` has the C, C2, stopped flag and event of `s`, and the model's own fields. -/
structure SameRun (s t : State) : Prop where
  pc : t.pc = s.pc
  c2 : t.c2 = s.c2
  stopped : t.stopped = s.stopped
  inst : t.inst = s.inst
  schedule : t.schedule = s.schedule
  written : t.written = s.written
  tick : t.tick = s.tick

/-- No write of an instruction concerns the run. -/
theorem Writes.sameRun (hu : Writes i s ea u) : SameRun s u := by
  cases hu <;> constructor <;> simp

end

/-! ### What the end of an instruction leaves -/

/-- `t` differs from `u` in C, C2, the flip-flops, the pending event and the stopped flag at most. -/
structure SameData (u t : State) : Prop where
  x : t.x = u.x
  mem : t.mem = u.mem
  vd5 : t.vd5 = u.vd5
  vd12 : t.vd12 = u.vd12
  interlock : t.interlock = u.interlock
  connect : t.connect = u.connect
  inst : t.inst = u.inst
  schedule : t.schedule = u.schedule
  written : t.written = u.written
  tick : t.tick = u.tick

section
variable {i : Instr} {s t : State} {ea : Nat}

/-- All that an instruction leaves in the rest of the state is its writes. -/
theorem Ends.sameData (h : Ends i s ea t) : ∃ u, Writes i s ea u ∧ SameData u t := by
  cases h with
  | inSequence ks hi hu => exact ⟨_, hu, by constructor <;> simp⟩
  | transfer hi hu => exact ⟨_, hu, by constructor <;> simp⟩
  | noTransfer ks hi hu => exact ⟨_, hu, by constructor <;> simp⟩
  | stop o hi => exact ⟨s, .nothing, by constructor <;> rfl⟩

/-- Only 99 stops the unit (10_state.md R44). -/
theorem Ends.stopped_eq (h : Ends i s ea t) (hi : ∀ o, i ≠ .h o) : t.stopped = s.stopped := by
  cases h with
  | inSequence ks hs hu => simp [hu.sameRun.stopped]
  | transfer hx hu => simp [hu.sameRun.stopped]
  | noTransfer ks hx hu => simp [hu.sameRun.stopped]
  | stop o ho => exact absurd ho (hi o)

/-- What C and C2 hold at the end of an instruction (10_state.md R27, R28, R30). -/
theorem Ends.counters (h : Ends i s ea t) :
    (Steps i ∧ t.pc = succAddr s.inst s.pc ∧ t.c2 = s.c2) ∨
    (inXfer i = true ∧ ((t.pc = transferTarget i s ea ∧ t.c2 = succAddr s.inst s.pc) ∨
      (t.pc = succAddr s.inst s.pc ∧ t.c2 = ea))) ∨
    ((∃ o, i = .h o) ∧ t.pc = s.pc ∧ t.c2 = s.c2) := by
  cases h with
  | inSequence ks hi hu =>
    refine .inl ⟨hi, ?_⟩
    simp [hu.sameRun.pc, hu.sameRun.c2, hu.sameRun.inst]
  | transfer hi hu =>
    refine .inr (.inl ⟨hi, .inl ?_⟩)
    simp [hu.sameRun.pc, hu.sameRun.inst]
  | noTransfer ks hi hu =>
    refine .inr (.inl ⟨hi, .inr ?_⟩)
    simp [hu.sameRun.pc, hu.sameRun.inst]
  | stop o hi => exact .inr (.inr ⟨⟨o, hi⟩, rfl, rfl⟩)

/-- An instruction that answers a next state has an effective address, and ends in one of the ways. -/
theorem exec_ends (h : exec i s = .next t) : ∃ ea, effM s i.fields = .ok ea ∧ Ends i s ea t := by
  obtain ⟨u, hans, hend⟩ := exec_answers i s
  obtain ⟨ea, hea, -, rfl⟩ := (hans t).1 h
  exact ⟨ea, hea, hend ea⟩

end

/-! ### The statements -/

/-- Settles O12: what an instruction leaves in registers and storage is its writes. -/
theorem frameStorage : Obligations.FrameStorage := by
  intro i s t h
  obtain ⟨ea, hea, hend⟩ := exec_ends h
  obtain ⟨u, hu, hsame⟩ := hend.sameData
  refine ⟨fun r hr hn => ?_, fun a ha hn => ?_⟩
  · rw [reg_congr hsame.x, hu.reg_eq hr (hn ea hea)]
  · rw [load_congr hsame.x hsame.mem hsame.inst, hu.load_eq ha (hn ea hea)]

/-- Settles O15: an instruction steps C, belongs to XFER or is 99, and each fixes C and C2. -/
theorem controlCounters : Obligations.ControlCounters := by
  intro i s t h
  obtain ⟨ea, hea, hend⟩ := exec_ends h
  rcases hend.counters with ⟨⟨hx, hh⟩, hc⟩ | ⟨hx, hc⟩ | ⟨⟨o, rfl⟩, hc⟩
  · exact ⟨fun hx' => by simp [hx] at hx', fun _ _ => hc, fun o ho => absurd ho (hh o), succAddr_inside⟩
  · refine ⟨fun _ => ⟨ea, hea, hc⟩, fun hx' => by simp [hx] at hx', fun o ho => ?_, succAddr_inside⟩
    subst ho
    exact absurd hx (by simp [inXfer])
  · exact ⟨fun hx => by simp [inXfer] at hx, fun _ hh => absurd rfl (hh o), fun _ _ => hc, succAddr_inside⟩

/-- Settles O16: only 29 and 39 write a display register, only 09 and 19 Interlock and Connect, and no write concerns the run. -/
theorem frameOther : Obligations.FrameOther := by
  intro i s t h
  obtain ⟨ea, -, hend⟩ := exec_ends h
  obtain ⟨u, hu, hsame⟩ := hend.sameData
  have hrun := hu.sameRun
  refine ⟨fun h29 h39 => ?_, fun h09 h19 => ?_, hend.stopped_eq, hsame.inst.trans hrun.inst,
    hsame.schedule.trans hrun.schedule, hsame.written.trans hrun.written, hsame.tick.trans hrun.tick⟩
  · simpa only [hsame.vd5, hsame.vd12] using hu.displays_eq h29 h39
  · simpa only [hsame.interlock, hsame.connect] using hu.interlock_eq h09 h19

/-- A step that goes on answers a next state. -/
theorem goesOn_iff (r : Out) : goesOn r = true ↔ ∃ t, r = .next t := by
  cases r <;> simp [goesOn]

/-- Settles O18: `exec_answers` gives the one condition for all instructions. -/
theorem goesOnExactly : Obligations.GoesOnExactly := by
  intro i s
  obtain ⟨u, hans, -⟩ := exec_answers i s
  rw [goesOn_iff]
  constructor
  · rintro ⟨t, ht⟩
    obtain ⟨ea, hea, hthere, -⟩ := (hans t).1 ht
    exact ⟨ea, hea, hthere⟩
  · rintro ⟨ea, hea, hthere⟩
    exact ⟨u ea, (hans _).2 ⟨ea, hea, hthere, rfl⟩⟩

end Sys2Proof.Machine
end

section
/-! The state after reset (10_state.md R45), the moves of the other agents (R35, R41) and the stop (R44). -/

namespace Sys2Proof.Machine
open Sys2Proof

/-! ### Reset -/

theorem reset_reg {r : Nat} (h1 : 1 ≤ r) (h2 : r ≤ 99) : State.reset.reg r = zeroWord := by
  obtain ⟨n, rfl⟩ : ∃ n, r = n + 1 := ⟨r - 1, by omega⟩
  simp [State.reg, State.reset, show n < 99 by omega]

theorem reset_hasReg {r : Nat} (h1 : 1 ≤ r) (h2 : r ≤ 99) : State.reset.hasReg r = true := by
  simp [State.hasReg, registersOf, State.reset, Installation.full, h1, h2]

theorem reset_region {a : Nat} (h : a < 97500) : region State.reset.inst a = .core := by
  simpa [region_core, coreWordsOf, State.reset, Installation.full] using h

theorem reset_load {a : Nat} (h : a < 97500) : State.reset.load a = zeroWord := by
  rw [State.load, reset_region h]
  rfl

theorem reset_flag (k : Nat) : State.reset.flag k = false := by
  by_cases h : k < 100 <;> simp [State.flag, State.reset, h]

/-- The state after reset is a good one: nothing is listed in storage and no flip-flop is set. -/
theorem reset_good : State.reset.good = true := by
  have noFlag : ∀ l : List Nat, l.any State.reset.flag = false := fun l => by simp [reset_flag]
  have hmasters : mastersAgree State.reset = true := by simp [mastersAgree, noFlag, reset_flag]
  have hdigits : digitFlagsFollow State.reset = true := by simp [digitFlagsFollow, noFlag]
  simp only [State.good, hmasters, hdigits]
  rfl

/-- Settles O1: field by field, the storage and the flip-flops by what reads them. -/
theorem resetState : Obligations.ResetState :=
  ⟨reset_good, rfl, rfl, rfl, rfl, fun _ h1 h2 => ⟨reset_hasReg h1 h2, reset_reg h1 h2⟩,
    fun _ h => ⟨reset_region h, reset_load h⟩, reset_flag, rfl, rfl, rfl, rfl, rfl, rfl, rfl, rfl⟩

/-! ### The stop -/

theorem cuTurn_of_stopped {s : State} (h : s.stopped = true) : cuTurn s = .fault .stopped := by simp [cuTurn, h]

theorem step_of_no_schedule {s : State} (h : s.schedule = []) : step s = cuTurn s.turn := by simp [step, h]

/-- Settles O9: 99 asks for its effective address alone, and a turn of a stopped unit is the fault. -/
theorem stopInstruction : Obligations.StopInstruction := by
  refine ⟨fun o s ea hea => (execH_answers o s _).2 ⟨ea, hea, rfl, rfl⟩, fun s hstop hsched => ?_⟩
  rw [step_of_no_schedule hsched, cuTurn_of_stopped (by simpa using hstop)]

/-! ### The other agents -/

theorem step_of_move {s : State} {m : Move} {rest : List (Option Move)} (h : s.schedule = some m :: rest) :
    step s = .next ({ s with schedule := rest }.applyMove m) := by simp [step, h]

/-- An intervention changes the flip-flops and the pending event alone, and an event pending already stands (log 15). -/
theorem intervene_eq (s : State) (k : Nat) (enter : Bool) :
    s.intervene k enter = { s with
      ff := ((s.putFlag k true).putFlag 99 true).ff,
      trap := if enter = true ∧ s.trap = none then some ⟨.contingency, k⟩ else s.trap } := by
  cases enter with
  | false => rfl
  | true => cases h : s.trap <;> simp [State.intervene, State.putFlag, h]

/-- An intervention sets its flip-flop and FF 99 (60_exceptions.md R480, R484). -/
theorem intervene_flag (s : State) (k j : Nat) (enter : Bool) (hk : k < 100) :
    (s.intervene k enter).flag j = (s.flag j || decide (j = k ∨ j = 99)) := by
  have hff : (s.intervene k enter).ff = ((s.putFlag k true).putFlag 99 true).ff := by rw [intervene_eq]
  rw [flag_congr hff, flag_putFlag _ _ _ _ (by decide), flag_putFlag _ _ _ _ hk]
  by_cases h99 : j = 99 <;> by_cases hjk : j = k <;> simp [h99, hjk]

/-- A core word written by another agent is the store of that word. -/
theorem writeCore_load {s : State} {a : Nat} (h : region s.inst a = .core) (hwf : s.mem.wf = true) (w : Word) (b : Nat) :
    (s.applyMove (.writeCore a w)).load b = if b = a then w else s.load b := by
  have hstore : s.applyMove (.writeCore a w) = s.store a w := by simp [State.applyMove, State.store, h, region_core.1 h]
  rw [hstore, load_store s a b w hwf (by simp [h, Region.writable])]

/-- Outside installed core nothing is written. -/
theorem writeCore_outside {s : State} {a : Nat} (h : region s.inst a ≠ .core) (w : Word) :
    (s.applyMove (.writeCore a w)).mem = s.mem := by
  simp [State.applyMove, region_core.not.1 h]

/-- That move concerns storage alone. -/
theorem writeCore_eq (s : State) (a : Nat) (w : Word) :
    s.applyMove (.writeCore a w) = { s with mem := (s.applyMove (.writeCore a w)).mem } := by
  unfold State.applyMove
  dsimp only
  split <;> rfl

/-- No move of another agent touches a fast register, C, C2, the stopped flag or the schedule. -/
theorem applyMove_frame (s : State) (m : Move) :
    (s.applyMove m).x = s.x ∧ (s.applyMove m).pc = s.pc ∧ (s.applyMove m).c2 = s.c2 ∧
      (s.applyMove m).stopped = s.stopped ∧ (s.applyMove m).schedule = s.schedule := by
  cases m with
  | processorIntervention e => simp [State.applyMove, intervene_eq]
  | consoleIntervention j e => simp [State.applyMove, intervene_eq]
  | writeCore a w => rw [writeCore_eq]; simp
  | _ => simp [State.applyMove]

/-- Settles O11: the step is the move, and each move is one of the updates above. -/
theorem externalMoves : Obligations.ExternalMoves := by
  intro s t m rest hs ht
  rw [step_of_move hs, Host.Outcome.next.injEq] at ht
  subst ht
  obtain ⟨hx, hpc, hc2, hstop, hsched⟩ := applyMove_frame { s with schedule := rest } m
  refine ⟨hx, hpc, hc2, hstop, hsched, ?disclosure, ?processor, ?console, ?interlock, ?display5, ?display12, ?core⟩
  case disclosure =>
    rintro rfl
    refine ⟨rfl, fun k => (flag_putFlag _ 10 k false (by decide)).trans ?_⟩
    by_cases hk : k = 10 <;> simp [hk, State.flag]
  case processor =>
    rintro e rfl
    simp only [State.applyMove]
    refine ⟨?_, fun k => intervene_flag _ 11 k e (by decide), ?_⟩ <;> rw [intervene_eq]
  case console =>
    rintro j e rfl
    simp only [State.applyMove]
    refine ⟨?_, fun k => intervene_flag _ (30 + j.val) k e (by omega), ?_⟩ <;> rw [intervene_eq]
  case interlock =>
    rintro b rfl
    rfl
  case display5 =>
    rintro v rfl
    rfl
  case display12 =>
    rintro w rfl
    rfl
  case core =>
    rintro a w rfl
    exact ⟨writeCore_eq _ a w, fun hcore hwf b => writeCore_load (s := { s with schedule := rest }) hcore hwf w b,
      fun hcore => writeCore_outside (s := { s with schedule := rest }) hcore w⟩

end Sys2Proof.Machine
end

section
/-! The good states (20_memory.md R60, R65; 10_state.md R26, R29, R36; 60_exceptions.md R480): goodness taken apart into storage,
C and C2, and flip-flops; each part is kept by every state operation that touches it, and so by every step. -/

namespace Sys2Proof.Machine
open Sys2Proof

/-! ### The parts of goodness -/

/-- Storage is canonical and lies within installed core (20_memory.md R60, R65). -/
structure GoodCore (s : State) : Prop where
  wf : s.mem.wf = true
  listed : ∀ e ∈ s.mem, e.1 < coreWordsOf s.inst

/-- The flip-flops that the master of a kind of event summarizes (60_exceptions.md R480). -/
def groupOf : TrapKind → List Nat
  | .contingency => contingencyFlags
  | .error => errorFlags

/-- The masters follow their groups (60_exceptions.md R480), and 71 to 82 the fourteen odd-even flip-flops (10_state.md R36). -/
structure GoodFlags (s : State) : Prop where
  masters : ∀ kind, s.flag (masterOf kind) = true ↔ ∃ k ∈ groupOf kind, s.flag k = true
  digits : ∀ k ∈ digitFlags, s.flag k = true → ∃ j ∈ oddEvenFlags, s.flag j = true

theorem mastersAgree_iff (s : State) :
    mastersAgree s = true ↔ ∀ kind, s.flag (masterOf kind) = true ↔ ∃ k ∈ groupOf kind, s.flag k = true := by
  have follows : ∀ m g, s.flag m = List.any g s.flag ↔ (s.flag m = true ↔ ∃ k ∈ g, s.flag k = true) := fun m g => by
    rw [Bool.eq_iff_iff, List.any_eq_true]
  rw [mastersAgree, Bool.and_eq_true, decide_eq_true_iff, decide_eq_true_iff, follows, follows]
  constructor
  · rintro ⟨herr, hcont⟩ (_ | _)
    · exact hcont
    · exact herr
  · exact fun h => ⟨h .error, h .contingency⟩

theorem digitFlagsFollow_iff (s : State) :
    digitFlagsFollow s = true ↔ ∀ k ∈ digitFlags, s.flag k = true → ∃ j ∈ oddEvenFlags, s.flag j = true := by
  rw [digitFlagsFollow, Bool.or_eq_true, Bool.not_eq_true', List.any_eq_true, List.any_eq_false]
  constructor
  · rintro (hodd | hnone) k hk hset
    · exact hodd
    · exact absurd hset (hnone k hk)
  · intro h
    by_cases hodd : ∃ j ∈ oddEvenFlags, s.flag j = true
    · exact .inl hodd
    · exact .inr fun k hk hset => hodd (h k hk hset)

theorem good_iff (s : State) :
    s.good = true ↔ GoodCore s ∧ (s.pc ≤ 99999 ∧ s.c2 ≤ 99999) ∧ GoodFlags s := by
  simp only [State.good, Bool.and_eq_true, mastersAgree_iff, digitFlagsFollow_iff, coreListed, List.all_eq_true,
    decide_eq_true_iff]
  constructor
  · rintro ⟨⟨⟨⟨⟨hwf, hlisted⟩, hpc⟩, hc2⟩, hmasters⟩, hdigits⟩
    exact ⟨⟨hwf, hlisted⟩, ⟨hpc, hc2⟩, hmasters, hdigits⟩
  · rintro ⟨⟨hwf, hlisted⟩, ⟨hpc, hc2⟩, hmasters, hdigits⟩
    exact ⟨⟨⟨⟨⟨hwf, hlisted⟩, hpc⟩, hc2⟩, hmasters⟩, hdigits⟩

/-- Goodness depends on storage, the installation, C, C2 and the flip-flops alone. -/
theorem good_congr {s t : State} (hs : s.good = true) (hm : t.mem = s.mem) (hi : t.inst = s.inst) (hpc : t.pc = s.pc)
    (hc2 : t.c2 = s.c2) (hff : t.ff = s.ff) : t.good = true := by
  have hflag : t.flag = s.flag := funext (flag_congr hff)
  simpa only [State.good, coreListed, mastersAgree, digitFlagsFollow, hm, hi, hpc, hc2, hflag] using hs

/-! ### Storage -/

theorem GoodCore.congr {s t : State} (h : GoodCore s) (hm : t.mem = s.mem) (hi : t.inst = s.inst) : GoodCore t :=
  ⟨hm ▸ h.wf, by rw [hm, hi]; exact h.listed⟩

/-- A write at an installed core address. -/
theorem GoodCore.write {s : State} (h : GoodCore s) {a : Nat} (ha : a < coreWordsOf s.inst) (w : Word) :
    GoodCore { s with mem := s.mem.write a w } := by
  refine ⟨Memory.wf_write _ _ _ h.wf, fun e he => ?_⟩
  rcases Memory.mem_write he with rfl | he
  · exact ha
  · exact h.listed e he

theorem GoodCore.store {s : State} (h : GoodCore s) (a : Nat) (w : Word) : GoodCore (s.store a w) := by
  unfold State.store
  split
  · next hreg => exact h.write (region_core.1 hreg) w
  · exact h.congr rfl rfl
  · exact h
  · exact h

/-- Whatever an instruction writes. -/
theorem GoodCore.writes {i : Instr} {s u : State} {ea : Nat} (h : GoodCore s) (hu : Writes i s ea u) : GoodCore u := by
  cases hu with
  | word w hn => exact h.store ea w
  | words hw lw hn => exact (h.store ea hw).store (ea + 1) lw
  | _ => exact h.congr (by simp) (by simp)

/-! ### Flip-flops -/

/-- The flip-flops that goodness speaks of: the masters and their groups, the odd-even flip-flops and 71 to 82 among them. -/
def watchedFlags : List Nat := [98, 99] ++ errorFlags ++ contingencyFlags

theorem oddEvenFlags_subset : oddEvenFlags ⊆ errorFlags := by decide
theorem digitFlags_subset : digitFlags ⊆ errorFlags := by decide
theorem errorFlags_watched : errorFlags ⊆ watchedFlags := by decide

theorem masterOf_watched (kind : TrapKind) : masterOf kind ∈ watchedFlags := by cases kind <;> decide
theorem groupOf_watched (kind : TrapKind) : groupOf kind ⊆ watchedFlags := by cases kind <;> decide

theorem lt_of_watched : ∀ k ∈ watchedFlags, k < 100 := by decide

theorem masterOf_injective : Function.Injective masterOf := by
  have differ : masterOf .contingency ≠ masterOf .error := by decide
  rintro (_ | _) (_ | _) h
  · rfl
  · exact absurd h differ
  · exact absurd h.symm differ
  · rfl

/-- A master belongs to neither group. -/
theorem masterOf_not_mem (kind other : TrapKind) : masterOf kind ∉ groupOf other := by
  cases kind <;> cases other <;> decide

/-- No flip-flop belongs to both groups. -/
theorem groupOf_disjoint {kind other : TrapKind} {k : Nat} (hk : k ∈ groupOf kind) (ho : k ∈ groupOf other) :
    kind = other := by
  have apart : ∀ k ∈ contingencyFlags, k ∉ errorFlags := by decide
  cases kind <;> cases other
  · rfl
  · exact absurd ho (apart k hk)
  · exact absurd hk (apart k ho)
  · rfl

theorem GoodFlags.congr {s t : State} (h : GoodFlags s) (ht : ∀ k ∈ watchedFlags, t.flag k = s.flag k) : GoodFlags t := by
  refine ⟨fun kind => ?_, fun k hk hset => ?_⟩
  · rw [ht _ (masterOf_watched kind), h.masters kind]
    exact exists_congr fun k => and_congr_right fun hk => by rw [ht k (groupOf_watched kind hk)]
  · rw [ht k (errorFlags_watched (digitFlags_subset hk))] at hset
    obtain ⟨j, hj, hodd⟩ := h.digits k hk hset
    exact ⟨j, hj, by rwa [ht j (errorFlags_watched (oddEvenFlags_subset hj))]⟩

theorem GoodFlags.of_ff {s t : State} (h : GoodFlags s) (ht : t.ff = s.ff) : GoodFlags t :=
  h.congr fun k _ => flag_congr ht k

/-- A flip-flop written that goodness does not speak of. -/
theorem GoodFlags.putFlag {s : State} (h : GoodFlags s) {k : Nat} (hk : k < 100) (hw : k ∉ watchedFlags) (b : Bool) :
    GoodFlags (s.putFlag k b) :=
  h.congr fun j hj => by rw [flag_putFlag _ _ _ _ hk, if_neg (ne_of_mem_of_not_mem hj hw)]

/-- What is set after members of one group are raised. -/
theorem flag_raise_iff (s : State) {kind : TrapKind} {ks : List Nat} (hks : ks ⊆ groupOf kind) (j : Nat) :
    (s.raise kind ks).flag j = true ↔ j ∈ ks ∨ (ks ≠ [] ∧ j = masterOf kind) ∨ s.flag j = true := by
  rw [flag_raise _ _ _ _ fun k hk => lt_of_watched k (groupOf_watched kind (hks hk))]
  simp [or_assoc]

/-- Raising members of one group, none of them among 71 to 82: its master is set with them, the other master and its group
are as they were. -/
theorem GoodFlags.raise {s : State} (h : GoodFlags s) {kind : TrapKind} {ks : List Nat} (hks : ks ⊆ groupOf kind)
    (hdig : ∀ k ∈ ks, k ∉ digitFlags) : GoodFlags (s.raise kind ks) := by
  refine ⟨fun other => ?_, fun k hk hset => ?_⟩
  · simp only [flag_raise_iff s hks]
    constructor
    · rintro (hm | ⟨hne, hm⟩ | hset)
      · exact absurd (hks hm) (masterOf_not_mem other kind)
      · obtain ⟨k, hk⟩ := List.exists_mem_of_ne_nil ks hne
        exact ⟨k, masterOf_injective hm ▸ hks hk, .inl hk⟩
      · obtain ⟨k, hk, hset⟩ := (h.masters other).1 hset
        exact ⟨k, hk, .inr (.inr hset)⟩
    · rintro ⟨k, hk, hkm | ⟨-, rfl⟩ | hset⟩
      · exact .inr (.inl ⟨List.ne_nil_of_mem hkm, by rw [groupOf_disjoint hk (hks hkm)]⟩)
      · exact absurd hk (masterOf_not_mem kind other)
      · exact .inr (.inr ((h.masters other).2 ⟨k, hk, hset⟩))
  · have hset : s.flag k = true := by
      rcases (flag_raise_iff s hks k).1 hset with hkm | ⟨-, rfl⟩ | hset
      · exact absurd hk (hdig k hkm)
      · exact absurd (digitFlags_subset hk) (masterOf_not_mem kind .error)
      · exact hset
    obtain ⟨j, hj, hodd⟩ := h.digits k hk hset
    exact ⟨j, hj, (flag_raise_iff s hks j).2 (.inr (.inr hodd))⟩

/-- No contingency is one of 71 to 82. -/
theorem GoodFlags.raiseContingency {s : State} (h : GoodFlags s) {ks : List Nat} (hks : ks ⊆ contingencyFlags) :
    GoodFlags (s.raiseContingency ks) := by
  have apart : ∀ k ∈ contingencyFlags, k ∉ digitFlags := by decide
  exact h.raise (kind := .contingency) hks fun k hk => apart k (hks hk)

/-- The masters recomputed agree, whatever they were (60_exceptions.md R480). -/
theorem goodFlags_refreshMasters {s : State}
    (h : ∀ k ∈ digitFlags, s.flag k = true → ∃ j ∈ oddEvenFlags, s.flag j = true) : GoodFlags s.refreshMasters := by
  have kept : ∀ kind, ∀ k ∈ groupOf kind, s.refreshMasters.flag k = s.flag k := fun kind k hk => by
    have h99 : k ≠ 99 := ne_of_mem_of_not_mem hk (masterOf_not_mem .contingency kind)
    have h98 : k ≠ 98 := ne_of_mem_of_not_mem hk (masterOf_not_mem .error kind)
    rw [flag_refreshMasters, if_neg h99, if_neg h98]
  refine ⟨fun kind => ?_, fun k hk hset => ?_⟩
  · have hmaster : s.refreshMasters.flag (masterOf kind) = (groupOf kind).any s.flag := by
      rw [flag_refreshMasters]
      cases kind <;> rfl
    rw [hmaster, List.any_eq_true]
    exact exists_congr fun k => and_congr_right fun hk => by rw [kept kind k hk]
  · rw [kept .error k (digitFlags_subset hk)] at hset
    obtain ⟨j, hj, hodd⟩ := h k hk hset
    exact ⟨j, hj, by rwa [kept .error j (oddEvenFlags_subset hj)]⟩

/-- After the automatic reset 71 to 82 follow the fourteen, whatever they did before (10_state.md R36). -/
theorem followDigitFlags_digits (s : State) :
    ∀ k ∈ digitFlags, s.followDigitFlags.flag k = true → ∃ j ∈ oddEvenFlags, s.followDigitFlags.flag j = true := by
  intro k hk hset
  have hodd : oddEvenFlags.any s.flag = true := by
    rw [flag_followDigitFlags] at hset
    simpa [hk] using (Bool.and_eq_true_iff.1 hset).2
  obtain ⟨j, hj, hset⟩ := List.any_eq_true.1 hodd
  exact ⟨j, hj, by rw [flag_followDigitFlags, hset, hodd]; rfl⟩

/-- 96 leaves good flip-flops, whichever it resets (49_display_misc.md R446). -/
theorem goodFlags_resetFlag (s : State) (k : Nat) : GoodFlags (s.resetFlag k) :=
  goodFlags_refreshMasters (followDigitFlags_digits _)

/-- No flip-flop that 97 may set is one that goodness speaks of (R447). -/
theorem not_watched_of_settable {o : Fields} (h : permitted (.sf o) = true) : o.a < 100 ∧ o.a ∉ watchedFlags := by
  have settable : o.a ≤ 10 ∨ o.a = 15 ∨ (21 ≤ o.a ∧ o.a ≤ 29) ∨ o.a = 90 := of_decide_eq_true h
  have unwatched : ∀ k < 100, (k ≤ 10 ∨ k = 15 ∨ (21 ≤ k ∧ k ≤ 29) ∨ k = 90) → k ∉ watchedFlags := by decide
  have hlt : o.a < 100 := by omega
  exact ⟨hlt, unwatched _ hlt settable⟩


/-! ### What an instruction raises (60_exceptions.md R471) -/

section
variable {l : List Nat} (sub rounded : Bool) (sm : Chr) (a m : Word) (p q : Word × Word) (tick : Nat)

theorem singleton_subset_of_mem {k : Nat} (hk : k ∈ l) : [k] ⊆ l := by simpa using hk

/-- The exponent raises 42 or 43 at most (40_arithmetic_add_sub.md R149). -/
theorem expFlags_subset {e : Int} {inhibited : Bool} (hl : [42, 43] ⊆ l) : expFlags e inhibited ⊆ l := by
  have hexp : expFlags e inhibited ⊆ [42, 43] := by
    unfold expFlags
    split_ifs <;> decide
  exact List.Subset.trans hexp hl

/-! Addition and subtraction. -/

theorem fxAdd1_raised : (fxAdd1 sub a m tick).raised ⊆ [44, 45] := by
  unfold fxAdd1
  split
  · exact singleton_subset_of_mem (by decide)
  · dsimp only
    split
    · exact List.nil_subset _
    · exact singleton_subset_of_mem (by decide)

theorem fxAdd2_raised : (fxAdd2 sub p q tick).raised ⊆ [44, 45] := by
  unfold fxAdd2
  split
  · exact singleton_subset_of_mem (by decide)
  · dsimp only
    split
    · exact List.nil_subset _
    · exact singleton_subset_of_mem (by decide)

theorem FlSum.raised_subset (r : FlSum) (plan : AddPlan) : r.raised plan ⊆ [40, 42, 43, 45] := by
  have hzero : (if r.zeroResult then [ffZeroResult] else []) ⊆ [40, 42, 43, 45] := by split <;> decide
  exact List.append_subset.2 ⟨hzero, expFlags_subset (by decide)⟩

theorem flAddSigned_raised : (flAddSigned sm sub a m tick).raised ⊆ [40, 42, 43, 45] := by
  unfold flAddSigned
  split
  · exact singleton_subset_of_mem (by decide)
  · exact FlSum.raised_subset _ _

theorem flAdd2_raised : (flAdd2 sub p q tick).raised ⊆ [40, 42, 43, 45] := by
  unfold flAdd2
  split
  · exact singleton_subset_of_mem (by decide)
  · exact FlSum.raised_subset _ _

/-! Multiplication and division: the sign anomaly first, whatever the rest is (41_arithmetic_mul_div.md R201). -/

theorem anomaly1_or_raised {bad : Bool} {r : Result1} (hsign : ffSign ∈ l) (hr : r.raised ⊆ l) :
    (if bad then anomaly1 tick else r).raised ⊆ l := by
  cases bad with
  | true => exact singleton_subset_of_mem hsign
  | false => exact hr

theorem anomaly2_or_raised {bad : Bool} {r : Result2} (hsign : ffSign ∈ l) (hr : r.raised ⊆ l) :
    (if bad then anomaly2 tick else r).raised ⊆ l := by
  cases bad with
  | true => exact singleton_subset_of_mem hsign
  | false => exact hr

theorem fxMulRounded_raised : (fxMulRounded a m tick).raised ⊆ [45] :=
  anomaly1_or_raised tick (by decide) (List.nil_subset _)

theorem fxMulExact_raised : (fxMulExact a m tick).raised ⊆ [45] :=
  anomaly2_or_raised tick (by decide) (List.nil_subset _)

theorem fxMulPair_raised : (fxMulPair p q tick).raised ⊆ [45] :=
  anomaly2_or_raised tick (by decide) (List.nil_subset _)

theorem flMul1_raised : (flMul1 rounded a m tick).raised ⊆ [42, 43, 45] :=
  anomaly1_or_raised tick (by decide) (expFlags_subset (by decide))

theorem flMulExt_raised : (flMulExt a m tick).raised ⊆ [42, 43, 45] :=
  anomaly2_or_raised tick (by decide) (expFlags_subset (by decide))

theorem flMulPair_raised : (flMulPair p q tick).raised ⊆ [42, 43, 45] :=
  anomaly2_or_raised tick (by decide) (expFlags_subset (by decide))

theorem fxDiv1_raised : (fxDiv1 a m tick).raised ⊆ [44, 45] := by
  refine anomaly1_or_raised tick (by decide) ?_
  split
  · exact singleton_subset_of_mem (by decide)
  · exact List.nil_subset _

theorem fxDivRem_raised : (fxDivRem a m tick).raised ⊆ [44, 45] := by
  refine anomaly2_or_raised tick (by decide) ?_
  split
  · exact singleton_subset_of_mem (by decide)
  · exact List.nil_subset _

theorem fxDivPair_raised : (fxDivPair p q tick).raised ⊆ [44, 45] := by
  refine anomaly2_or_raised tick (by decide) ?_
  split
  · exact singleton_subset_of_mem (by decide)
  · exact List.nil_subset _

theorem flDiv1_raised : (flDiv1 a m tick).raised ⊆ [41, 42, 43, 45] := by
  refine anomaly1_or_raised tick (by decide) ?_
  split
  · exact singleton_subset_of_mem (by decide)
  · exact expFlags_subset (by decide)

theorem flDivPair_raised : (flDivPair p q tick).raised ⊆ [41, 42, 43, 45] := by
  refine anomaly2_or_raised tick (by decide) ?_
  split
  · exact singleton_subset_of_mem (by decide)
  · exact expFlags_subset (by decide)

theorem flDivPairBy_raised : (flDivPairBy p m tick).raised ⊆ [41, 42, 43, 45] := by
  refine anomaly2_or_raised tick (by decide) ?_
  split
  · exact singleton_subset_of_mem (by decide)
  · exact expFlags_subset (by decide)

/-! Negative stores and conversions. -/

theorem negRaised_subset (bad : Bool) : negRaised bad ⊆ [45] := by cases bad <;> decide

theorem countOf_lt (ea : Nat) : countOf ea < 100 := Nat.mod_lt _ (by decide)

/-- A scale factor is two digits, so a converted exponent never exceeds 99: 42 is not raised (47_conversion.md R393). -/
theorem convertedFlags_subset {sf : Nat} (hsf : sf < 100) (width v : Nat) : convertedFlags sf width v ⊆ [40, 43] := by
  have hzero : (if v = 0 then [ffZeroResult] else []) ⊆ [40, 43] := by split <;> decide
  have hexp : expFlags (convertedExp sf width v) false ⊆ [40, 43] := by
    have hle : ¬ 99 < convertedExp sf width v := by rw [convertedExp]; omega
    rw [expFlags, if_neg hle]
    split_ifs <;> decide
  exact List.append_subset.2 ⟨hzero, hexp⟩

end

/-- `t` has the flip-flops of `s` after contingencies among `l` are raised, none perhaps. -/
def RaisesWithin (l : List Nat) (s t : State) : Prop := ∃ ks, ks ⊆ l ∧ t.ff = (s.raiseContingency ks).ff

section
variable {l : List Nat} {s t u : State}

theorem putFlags_ff_congr (h : t.ff = s.ff) (ks : List Nat) : (t.putFlags ks).ff = (s.putFlags ks).ff := by
  induction ks generalizing s t with
  | nil => exact h
  | cons k ks ih => exact ih (by simp [h])

/-- The flip-flops after an event depend on those before it alone. -/
theorem raiseContingency_ff_congr (h : t.ff = s.ff) (ks : List Nat) :
    (t.raiseContingency ks).ff = (s.raiseContingency ks).ff := by
  cases ks with
  | nil => exact h
  | cons k ks =>
    exact congrArg (fun v : Vector Bool 100 => v.setIfInBounds 99 true) (putFlags_ff_congr h (k :: ks))

theorem RaisesWithin.of_ff (h : t.ff = s.ff) : RaisesWithin l s t := ⟨[], List.nil_subset _, h⟩

/-- Contingencies raised after writes that concern no flip-flop. -/
theorem RaisesWithin.of_raise {ks : List Nat} (h : u.ff = s.ff) (hks : ks ⊆ l) : RaisesWithin l s (u.raiseContingency ks) :=
  ⟨ks, hks, raiseContingency_ff_congr h ks⟩

theorem RaisesWithin.of_deposit1 {r : Nat} {v : Result1} (hv : v.raised ⊆ l) : RaisesWithin l s (s.deposit1 r v) :=
  .of_raise rfl hv

theorem RaisesWithin.of_deposit2 {r : Nat} {v : Result2} (hv : v.raised ⊆ l) : RaisesWithin l s (s.deposit2 r v) :=
  .of_raise rfl hv

/-- A test raises 45 when it is blocked, and nothing else (43_conditional_transfer.md R302). -/
theorem RaisesWithin.of_condXfer (ea : Nat) (c : Cond) : RaisesWithin [45] s (condXfer s ea c) := by
  cases c with
  | yes => exact .of_ff rfl
  | no => exact .of_ff rfl
  | blocked => exact .of_raise rfl (by decide)

/-- A test that cannot be blocked raises nothing. -/
theorem condXfer_ofBool_ff (s : State) (ea : Nat) (b : Bool) : (condXfer s ea (.ofBool b)).ff = s.ff := by
  cases b <;> rfl

/-- An instruction whose answers all raise within `l` does. -/
theorem Answers.raisesWithin {r : Out} {o : Fields} {there : Nat → Bool} {v : Nat → State} (hans : Answers r s o there v)
    (ht : r = .next t) (h : ∀ ea, RaisesWithin l s (v ea)) : RaisesWithin l s t := by
  obtain ⟨ea, -, -, rfl⟩ := (hans t).1 ht
  exact h ea

end

/-- Every instruction but 96 and 97 changes flip-flops by raising its own contingencies alone (60_exceptions.md R471). -/
theorem exec_raises {i : Instr} {s t : State} (h : exec i s = .next t) (hrf : ∀ o, i ≠ .rf o) (hsf : ∀ o, i ≠ .sf o) :
    RaisesWithin (raisable i) s t := by
  cases i with
  | ax o | nx o => exact (arithA_answers o s _).raisesWithin h fun _ => .of_deposit1 (fxAdd1_raised _ _ _ _)
  | a o | n o | am o => exact (arithA_answers o s _).raisesWithin h fun _ => .of_deposit1 (flAddSigned_raised _ _ _ _ _)
  | au o | nu o => exact (arithUp_answers o s _).raisesWithin h fun _ => .of_deposit1 (flAddSigned_raised _ _ _ _ _)
  | aax o | nnx o => exact (arithPair_answers o s _).raisesWithin h fun _ => .of_deposit2 (fxAdd2_raised _ _ _ _)
  | aa o | nn o => exact (arithPair_answers o s _).raisesWithin h fun _ => .of_deposit2 (flAdd2_raised _ _ _ _)
  | mxr o => exact (arithA_answers o s _).raisesWithin h fun _ => .of_deposit1 (fxMulRounded_raised _ _ _)
  | mxe o => exact (arithExt_answers o s _).raisesWithin h fun _ => .of_deposit2 (fxMulExact_raised _ _ _)
  | mmx o => exact (arithPair_answers o s _).raisesWithin h fun _ => .of_deposit2 (fxMulPair_raised _ _ _)
  | mr o | m o => exact (arithA_answers o s _).raisesWithin h fun _ => .of_deposit1 (flMul1_raised _ _ _ _)
  | mu o => exact (arithUp_answers o s _).raisesWithin h fun _ => .of_deposit1 (flMul1_raised _ _ _ _)
  | me o => exact (arithExt_answers o s _).raisesWithin h fun _ => .of_deposit2 (flMulExt_raised _ _ _)
  | mm o => exact (arithPair_answers o s _).raisesWithin h fun _ => .of_deposit2 (flMulPair_raised _ _ _)
  | dx o => exact (arithA_answers o s _).raisesWithin h fun _ => .of_deposit1 (fxDiv1_raised _ _ _)
  | dxe o => exact (arithExt_answers o s _).raisesWithin h fun _ => .of_deposit2 (fxDivRem_raised _ _ _)
  | ddx o => exact (arithPair_answers o s _).raisesWithin h fun _ => .of_deposit2 (fxDivPair_raised _ _ _)
  | dr o => exact (arithA_answers o s _).raisesWithin h fun _ => .of_deposit1 (flDiv1_raised _ _ _)
  | dur o => exact (arithUp_answers o s _).raisesWithin h fun _ => .of_deposit1 (flDiv1_raised _ _ _)
  | dd o => exact (arithPair_answers o s _).raisesWithin h fun _ => .of_deposit2 (flDivPair_raised _ _ _)
  | dse o => exact (arithPairBy_answers o s _).raisesWithin h fun _ => .of_deposit2 (flDivPairBy_raised _ _ _)
  | s o | sm o =>
    exact (storeOne_answers o s _ _).raisesWithin h fun _ => .of_raise (by simp) (List.Subset.refl [])
  | sn o => exact (storeOne_answers o s _ _).raisesWithin h fun _ => .of_raise (by simp) (negRaised_subset _)
  | ss o | ssm o =>
    exact (storeTwo_answers o s _ _).raisesWithin h fun _ => .of_raise (by simp) (List.Subset.refl [])
  | ssn o => exact (storeTwo_answers o s _ _).raisesWithin h fun _ => .of_raise (by simp) (negRaised_subset _)
  | cx o | pr o | pl o => exact (onAcc_answers o s _).raisesWithin h fun _ => .of_deposit1 (List.Subset.refl [])
  | c o => exact (onAcc_answers o s _).raisesWithin h fun ea => .of_deposit1 (convertedFlags_subset (countOf_lt ea) _ _)
  | ccx o | ppr o | ppl o | ppc o =>
    exact (onAccPair_answers o s _).raisesWithin h fun _ => .of_deposit2 (List.Subset.refl [])
  | cc o =>
    exact (onAccPair_answers o s _).raisesWithin h fun ea => .of_deposit2 (convertedFlags_subset (countOf_lt ea) _ _)
  | te o | tg o => exact (testTwo_answers o s _).raisesWithin h fun ea => .of_condXfer ea _
  | tz o | tgz o | tlz o => exact (testOne_answers o s _).raisesWithin h fun ea => .of_condXfer ea _
  | tte o | ttg o => exact (testFour_answers o s _).raisesWithin h fun ea => .of_condXfer ea _
  | tf o => exact (execTf_answers o s).raisesWithin h fun ea => .of_ff (condXfer_ofBool_ff s ea _)
  | f o => exact (execF_answers o s).raisesWithin h fun _ => .of_ff rfl
  | ff o => exact (execFf_answers o s).raisesWithin h fun _ => .of_ff rfl
  | eop o | ea o | eb o | eab o | em o => exact (extractPart_answers o s _ _).raisesWithin h fun _ => .of_ff rfl
  | el o | eu o => exact (extractFrom_answers o s _).raisesWithin h fun _ => .of_ff rfl
  | slj o => exact (execSlj_answers o s).raisesWithin h fun _ => .of_ff (by simp)
  | bit o | bdt o | bic o | bdc o => exact (indexBranch_answers o s _ _).raisesWithin h fun _ => .of_ff (by simp)
  | bi o | bd o => exact (indexStep_answers o s _).raisesWithin h fun _ => .of_ff rfl
  | t o => exact (execT_answers o s).raisesWithin h fun _ => .of_ff rfl
  | tr o => exact (execTr_answers o s).raisesWithin h fun _ => .of_ff (by simp)
  | tb o => exact (execTb_answers o s).raisesWithin h fun _ => .of_ff rfl
  | fv o | fvk o => exact (displayFetch_answers o s _).raisesWithin h fun _ => .of_ff (by split <;> rfl)
  | sv o | svk o => exact (displayStore_answers o s _).raisesWithin h fun _ => .of_ff (by split <;> rfl)
  | sk o => exact (execSk_answers o s).raisesWithin h fun _ => .of_ff rfl
  | rf o => exact absurd rfl (hrf o)
  | sf o => exact absurd rfl (hsf o)
  | h o => exact (execH_answers o s).raisesWithin h fun _ => .of_ff rfl

theorem raisable_subset (i : Instr) : raisable i ⊆ contingencyFlags := by
  unfold raisable
  split <;> decide

/-- Every instruction keeps good flip-flops. -/
theorem exec_keeps_goodFlags {i : Instr} {s t : State} (hs : GoodFlags s) (h : exec i s = .next t) : GoodFlags t := by
  by_cases hrf : ∃ o, i = .rf o
  · obtain ⟨o, rfl⟩ := hrf
    obtain ⟨ea, -, -, rfl⟩ := (execRf_answers o s t).1 h
    exact (goodFlags_resetFlag s o.a).of_ff rfl
  by_cases hsf : ∃ o, i = .sf o
  · obtain ⟨o, rfl⟩ := hsf
    obtain ⟨ea, -, hset, rfl⟩ := (execSf_answers o s t).1 h
    obtain ⟨hlt, hfree⟩ := not_watched_of_settable hset
    exact (hs.putFlag hlt hfree true).of_ff rfl
  obtain ⟨ks, hks, hff⟩ := exec_raises h (not_exists.1 hrf) (not_exists.1 hsf)
  exact (hs.raiseContingency (List.Subset.trans hks (raisable_subset i))).of_ff hff

/-! ### One instruction -/

theorem instrOfNumber_fields {n : Nat} {o : Fields} {i : Instr} (h : instrOfNumber n o = some i) : i.fields = o := by
  unfold instrOfNumber at h
  split at h <;> cases h <;> rfl

/-- The M-digits of a decoded instruction are five digits (30_encoding.md R90). -/
theorem decode_m_le {w : Word} {i : Instr} (h : decode w = .instr i) : i.fields.m ≤ 99999 := by
  have body : ∀ td, decodeBody td w = .instr i → i.fields.m ≤ 99999 := by
    intro td hbody
    unfold decodeBody at hbody
    split at hbody
    · split at hbody
      · next j hj =>
        cases hbody
        have hm : num (slice w 5 1) < 10 ^ 5 := by simpa using num_lt (slice w 5 1)
        rw [instrOfNumber_fields hj, fieldsOf]
        exact Nat.le_of_lt_succ hm
      · cases hbody
    · cases hbody
  unfold decode at h
  split at h
  · cases h
  · cases h
  · exact body _ h

theorem transferTarget_le {ea : Nat} (h : ea ≤ 99999) (i : Instr) (s : State) : transferTarget i s ea ≤ 99999 := by
  unfold transferTarget
  split
  · exact succAddr_le _ _
  · exact h

/-- C and C2 stay five digits at the end of an instruction (10_state.md R26, R29). -/
theorem Ends.counters_le {i : Instr} {s t : State} {ea : Nat} (h : Ends i s ea t) (hea : ea ≤ 99999)
    (hs : s.pc ≤ 99999 ∧ s.c2 ≤ 99999) : t.pc ≤ 99999 ∧ t.c2 ≤ 99999 := by
  rcases h.counters with ⟨-, hpc, hc2⟩ | ⟨-, ⟨hpc, hc2⟩ | ⟨hpc, hc2⟩⟩ | ⟨-, hpc, hc2⟩ <;> rw [hpc, hc2]
  · exact ⟨succAddr_le _ _, hs.2⟩
  · exact ⟨transferTarget_le hea i s, succAddr_le _ _⟩
  · exact ⟨succAddr_le _ _, hea⟩
  · exact hs

/-- An instruction with five M-digits, as every decoded one has, keeps goodness. -/
theorem exec_keeps_good {i : Instr} {s t : State} (hm : i.fields.m ≤ 99999) (hs : s.good = true)
    (h : exec i s = .next t) : t.good = true := by
  obtain ⟨hcore, hcounters, hflags⟩ := (good_iff s).1 hs
  obtain ⟨ea, hea, hend⟩ := exec_ends h
  obtain ⟨u, hu, hsame⟩ := hend.sameData
  exact (good_iff t).2 ⟨(hcore.writes hu).congr hsame.mem hsame.inst, hend.counters_le (effM_le hm hea) hcounters,
    exec_keeps_goodFlags hflags h⟩

/-! ### One step -/

/-- A fetched word that goes on is an instruction that ran, or an illegal T-digit (30_encoding.md R98). -/
theorem runWord_next {w : Word} {s t : State} (h : runWord w s = .next t) :
    (∃ i u, decode w = .instr i ∧ exec i s = .next u ∧ t = u.noteWrites i s) ∨ t = s.raise .error [ffDecoding] := by
  unfold runWord at h
  split at h
  · cases h
  · split at h
    · next i hi =>
      obtain ⟨u, hu, -, rfl⟩ := settle_eq_next.1 h
      exact .inl ⟨i, u, hi, hu, rfl⟩
    · cases h
      exact .inr rfl
    · cases h
    · cases h
    · cases h

/-- A turn of the unit that goes on is the transfer to a routine, or runs a fetched word. -/
theorem cuTurn_next {s t : State} (h : cuTurn s = .next t) : (∃ e, t = s.enterRoutine e) ∨ ∃ w, runWord w s = .next t := by
  unfold cuTurn at h
  split at h
  · cases h
  · split at h
    · next e _ =>
      cases h
      exact .inl ⟨e, rfl⟩
    · split at h
      · cases outcome_eq_next.1 h
      · next w _ => exact .inr ⟨w, h⟩

/-- The error of an illegal T-digit is FF 49 with its master (60_exceptions.md R477). -/
theorem decodingError_keeps_good {s : State} (hs : s.good = true) : (s.raise .error [ffDecoding]).good = true := by
  obtain ⟨hcore, hcounters, hflags⟩ := (good_iff s).1 hs
  exact (good_iff _).2 ⟨hcore.congr (by simp) (by simp), by simpa using hcounters, hflags.raise (by decide) (by decide)⟩

theorem runWord_keeps_good {w : Word} {s t : State} (hs : s.good = true) (h : runWord w s = .next t) : t.good = true := by
  rcases runWord_next h with ⟨i, u, hi, hu, rfl⟩ | rfl
  · exact good_congr (exec_keeps_good (decode_m_le hi) hs hu) rfl rfl rfl rfl rfl
  · exact decodingError_keeps_good hs

theorem cuTurn_keeps_good {s t : State} (hs : s.good = true) (h : cuTurn s = .next t) : t.good = true := by
  rcases cuTurn_next h with ⟨e, rfl⟩ | ⟨w, hw⟩
  · obtain ⟨-, -, -, -, -, hgood⟩ := enterRoutine_spec s e
    exact hgood hs
  · exact runWord_keeps_good hs hw

/-- An intervention raises a contingency as far as flip-flops go (60_exceptions.md R484). -/
theorem intervene_keeps_good {s : State} (hs : s.good = true) {k : Nat} (hk : k ∈ contingencyFlags) (enter : Bool) :
    (s.intervene k enter).good = true := by
  obtain ⟨hcore, hcounters, hflags⟩ := (good_iff s).1 hs
  have hraise : GoodFlags (s.raiseContingency [k]) := hflags.raiseContingency (by simpa using hk)
  rw [intervene_eq]
  exact (good_iff _).2 ⟨hcore.congr rfl rfl, hcounters, hraise.of_ff rfl⟩

/-- No move of another agent breaks goodness: the processor and the console set contingencies, FF 10 is in no group, and core
is written where it is installed alone. -/
theorem applyMove_keeps_good {s : State} (hs : s.good = true) (m : Move) : (s.applyMove m).good = true := by
  obtain ⟨hcore, hcounters, hflags⟩ := (good_iff s).1 hs
  cases m with
  | resetDisclosure =>
    exact (good_iff _).2 ⟨hcore.congr rfl rfl, hcounters, hflags.putFlag (by decide) (by decide) false⟩
  | processorIntervention e => exact intervene_keeps_good hs (by decide) e
  | consoleIntervention j e =>
    have console : ∀ j : Fin 5, 30 + j.val ∈ contingencyFlags := by decide
    exact intervene_keeps_good hs (console j) e
  | setInterlock b => exact good_congr hs rfl rfl rfl rfl rfl
  | loadDisplay5 v => exact good_congr hs rfl rfl rfl rfl rfl
  | loadDisplay12 w => exact good_congr hs rfl rfl rfl rfl rfl
  | writeCore a w =>
    unfold State.applyMove
    dsimp only
    split
    · next ha => exact (good_iff _).2 ⟨hcore.write ha w, hcounters, hflags.of_ff rfl⟩
    · exact hs

/-- Settles O8: a step is a turn of the unit or a move of another agent, and each keeps goodness; the schedule and the count of
turns do not concern it. -/
theorem stepKeepsGood : Obligations.StepKeepsGood := by
  intro s t hs h
  have turn_good : ∀ u : State, u.good = true → u.turn.good = true := fun u hu => good_congr hu rfl rfl rfl rfl rfl
  have rest_good : ∀ rest, ({ s with schedule := rest } : State).good = true := fun rest =>
    good_congr hs rfl rfl rfl rfl rfl
  unfold step at h
  split at h
  · exact cuTurn_keeps_good (turn_good s hs) h
  · exact cuTurn_keeps_good (turn_good _ (rest_good _)) h
  · cases h
    exact applyMove_keeps_good (rest_good _) _

end Sys2Proof.Machine
end

section
/-! The encoding (30_encoding.md R90 to R95, R110, R111): each part of an instruction word determines its field and is
determined by it. The round trip holds part by part: the T-digit, the instruction number, the three digit strings. -/

namespace Sys2Proof.Machine
open Sys2Proof

/-! ### The T-digit (30_encoding.md R91, R94) -/

/-- A digit other than 0 is the selector it shows. -/
theorem readT_digit {t : Fin 10} (ht : t ≠ 0) : readT (.d t) = .legal (.selector t.val) := by simp [readT, ht]

/-- The legal T-digits are the characters of the well-formed ones, each of its own. -/
theorem readT_eq_legal {c : Chr} {t : TDigit} :
    readT c = .legal t ↔ t.wellFormed = true ∧ encodeT t = c := by
  constructor
  · intro h
    cases c with
    | period => cases h; exact ⟨rfl, rfl⟩
    | d n =>
      have hn : n ≠ 0 := fun hn => by simp [readT, hn] at h
      obtain rfl : TDigit.selector n.val = t := by simpa [readT_digit hn] using h
      have hpos : n.val ≠ 0 := fun h0 => hn (Fin.ext h0)
      refine ⟨?_, digitChr_digitValue (c := .d n) rfl⟩
      simp only [TDigit.wellFormed, Bool.and_eq_true, decide_eq_true_eq]
      omega
    | minus => cases h
    | ignore => cases h
    | other k => cases h
  · rintro ⟨hwf, rfl⟩
    cases t with
    | untraced => rfl
    | selector v =>
      obtain ⟨h1, h9⟩ : 1 ≤ v ∧ v ≤ 9 := by simpa [TDigit.wellFormed] using hwf
      have hdigit : digitChr v = .d ⟨v, by omega⟩ := congrArg Chr.d (Fin.ext (Nat.mod_eq_of_lt (by omega)))
      have hpos : (⟨v, by omega⟩ : Fin 10) ≠ 0 := fun h0 => absurd (congrArg Fin.val h0) (Nat.ne_of_gt h1)
      rw [encodeT, hdigit, readT_digit hpos]

/-- Every other character is an illegal T-digit (R94). -/
theorem readT_eq_illegal {c : Chr} (hperiod : c ≠ .period) (hignore : c ≠ .ignore)
    (hdigit : ∀ t : Fin 10, t ≠ 0 → c ≠ .d t) : readT c = .illegal := by
  cases c with
  | period => exact absurd rfl hperiod
  | ignore => exact absurd rfl hignore
  | d n =>
    obtain rfl : n = 0 := by_contra fun hn => hdigit n hn rfl
    rfl
  | minus => rfl
  | other k => rfl

/-! ### The instruction number (30_encoding.md R110, R111) -/

open Laws.NumberNames in
theorem instrOfNumber_number (i : Instr) : instrOfNumber i.number i.fields = some i := by
  cases i
  exacts [sk _, ax _, a _, am _, au _, aax _, aa _, fv _, nx _, n _, nu _, nnx _, nn _, fvk _, mxr _, mxe _, mr _, m _, mu _,
    me _, mmx _, mm _, sv _, dx _, dxe _, dr _, dur _, ddx _, dd _, dse _, svk _, s _, sn _, sm _, f _, ss _, ssn _, ssm _,
    ff _, cx _, c _, pr _, pl _, ccx _, cc _, ppr _, ppl _, ppc _, eop _, ea _, eb _, eab _, em _, el _, eu _, te _, tg _,
    tz _, tgz _, tlz _, tte _, ttg _, bit _, bdt _, bic _, bdc _, bi _, bd _, t _, tr _, tb _, slj _, tf _, rf _, sf _, h _]

/-- A number and fields name an instruction exactly when they are that instruction's own. -/
theorem instrOfNumber_eq_some {n : Nat} {o : Fields} {i : Instr} :
    instrOfNumber n o = some i ↔ n = i.number ∧ o = i.fields := by
  constructor
  · intro h
    have hnumber : i.number = n := by
      unfold instrOfNumber at h
      split at h <;> cases h <;> rfl
    exact ⟨hnumber.symm, (instrOfNumber_fields h).symm⟩
  · rintro ⟨rfl, rfl⟩
    exact instrOfNumber_number i

theorem number_lt (i : Instr) : i.number < 10 ^ 2 := by
  cases i <;> norm_num [Instr.number]

/-! ### The word -/

/-- A word is an instruction's when its T-digit, its number and its fields are that instruction's, all in digits (R90, R95). -/
theorem decode_eq_instr {w : Word} {i : Instr} :
    decode w = .instr i ↔
      readT w.c12 = .legal i.fields.t ∧ (slice w 11 1).all isNum = true ∧ num (slice w 11 10) = i.number ∧
        num (slice w 9 8) = i.fields.a ∧ num (slice w 7 6) = i.fields.b ∧ num (slice w 5 1) = i.fields.m := by
  have body (t : TDigit) : decodeBody t w = .instr i ↔
      (slice w 11 1).all isNum = true ∧ num (slice w 11 10) = i.number ∧ fieldsOf t w = i.fields := by
    unfold decodeBody
    split
    · next hnum =>
      split
      · next j hj => simp [hnum, ← instrOfNumber_eq_some, hj]
      · next hj => simp [hnum, ← instrOfNumber_eq_some, hj]
    · next hnum => simp [hnum]
  have fields (t : TDigit) : fieldsOf t w = i.fields ↔
      t = i.fields.t ∧ num (slice w 9 8) = i.fields.a ∧ num (slice w 7 6) = i.fields.b ∧
        num (slice w 5 1) = i.fields.m := by
    cases i.fields
    simp [fieldsOf]
  unfold decode
  split
  · next h => simp [h]
  · next h => simp [h]
  · next t h =>
    rw [body, fields, h, TReading.legal.injEq]
    tauto

/-- The parts of the word of an instruction stand in its positions (R90). -/
theorem slice_encode (i : Instr) :
    (encode i).c12 = encodeT i.fields.t ∧ slice (encode i) 11 10 = dig 2 i.number ∧
      slice (encode i) 9 8 = dig 2 i.fields.a ∧ slice (encode i) 7 6 = dig 2 i.fields.b ∧
      slice (encode i) 5 1 = dig 5 i.fields.m := ⟨rfl, rfl, rfl, rfl, rfl⟩

/-- The eleven positions below the T-digit in the parts of the format `T II AA BB MMMMM` (R90). -/
theorem slice_parts (w : Word) :
    slice w 11 1 = slice w 11 10 ++ slice w 9 8 ++ slice w 7 6 ++ slice w 5 1 := rfl

/-- An instruction is well formed when its T-digit is legal and the digits of each field suffice (R90, R91). -/
theorem wellFormed_iff {i : Instr} :
    i.wellFormed = true ↔
      i.fields.t.wellFormed = true ∧ i.fields.a < 10 ^ 2 ∧ i.fields.b < 10 ^ 2 ∧ i.fields.m < 10 ^ 5 := by
  simp [Instr.wellFormed, Fields.wellFormed, and_assoc, Nat.lt_succ_iff]

/-- Settles O2: every part of the word reads as the number it was written from. -/
theorem decodeOfEncode : Obligations.DecodeOfEncode := by
  intro i hwf
  obtain ⟨ht, ha, hb, hm⟩ := wellFormed_iff.1 hwf
  obtain ⟨h12, hii, haa, hbb, hmm⟩ := slice_encode i
  rw [decode_eq_instr, slice_parts, h12, hii, haa, hbb, hmm]
  exact ⟨readT_eq_legal.2 ⟨ht, rfl⟩, by simp, num_dig_of_lt (number_lt i), num_dig_of_lt ha, num_dig_of_lt hb,
    num_dig_of_lt hm⟩

/-- Settles O3: every part of the word is spelled again by the number read from it. -/
theorem encodeOfDecode : Obligations.EncodeOfDecode := by
  intro w i h
  obtain ⟨ht, hall, hii, haa, hbb, hmm⟩ := decode_eq_instr.1 h
  obtain ⟨htwf, ht12⟩ := readT_eq_legal.1 ht
  refine ⟨wellFormed_iff.2 ⟨htwf, ?_, ?_, ?_⟩, ?_⟩
  · exact haa ▸ num_lt (slice w 9 8)
  · exact hbb ▸ num_lt (slice w 7 6)
  · exact hmm ▸ num_lt (slice w 5 1)
  · rw [slice_parts] at hall
    simp only [List.all_append, Bool.and_eq_true] at hall
    obtain ⟨⟨⟨h11, h9⟩, h7⟩, h5⟩ := hall
    rw [encode, ht12, ← hii, ← haa, ← hbb, ← hmm, dig_num (n := 2) h11 rfl, dig_num (n := 2) h9 rfl,
      dig_num (n := 2) h7 rfl, dig_num (n := 5) h5 rfl, ← slice_parts, wordOf_slice]

/-- Settles O4: the decoder runs on the four words. -/
theorem sampleWords : Obligations.SampleWords := by
  unfold Obligations.SampleWords
  decide

end Sys2Proof.Machine
end

section
/-! The instruction cycle as far as the fetched word decides it (30_encoding.md R98): what stops the fetch, what the T-digit, the
other characters and the number make of the word, and that an instruction runs with its own meaning. -/

namespace Sys2Proof.Machine
open Sys2Proof

/-! ### What decoding answers to a word that is no instruction (30_encoding.md R91, R94, R95, R111) -/

theorem decode_illegalT {w : Word} (h : readT w.c12 = .illegal) : decode w = .illegalT := by simp [decode, h]

theorem decode_indirect {w : Word} (h : readT w.c12 = .ignoreSign) : decode w = .indirect := by simp [decode, h]

theorem decode_nonNumeric {w : Word} {t : TDigit} (ht : readT w.c12 = .legal t)
    (hnum : (slice w 11 1).all isNum = false) : decode w = .nonNumeric := by simp [decode, ht, decodeBody, hnum]

theorem decode_unassigned {w : Word} {t : TDigit} (ht : readT w.c12 = .legal t)
    (hnum : (slice w 11 1).all isNum = true)
    (hnone : instrOfNumber (num (slice w 11 10)) (fieldsOf t w) = none) :
    decode w = .unassigned (num (slice w 11 10)) := by simp [decode, ht, decodeBody, hnum, hnone]

/-- The 24 numbers that the table of R110 leaves out (R111). -/
def unassignedNumbers : List Nat :=
  [7, 8, 10, 13, 17, 18, 28, 33, 38, 44, 49, 54, 67, 68, 69, 77, 78, 79, 84, 87, 88, 89, 94, 98]

theorem unassignedNumbers_lt : ∀ n ∈ unassignedNumbers, n < 10 ^ 2 := by decide

theorem number_not_mem_unassignedNumbers (i : Instr) : i.number ∉ unassignedNumbers := by
  cases i <;> norm_num [unassignedNumbers, Instr.number]

theorem instrOfNumber_unassigned {n : Nat} (hn : n ∈ unassignedNumbers) (o : Fields) : instrOfNumber n o = none := by
  rw [Option.eq_none_iff_forall_ne_some]
  intro i hi
  obtain ⟨rfl, -⟩ := instrOfNumber_eq_some.1 hi
  exact number_not_mem_unassignedNumbers i hn

/-! ### The tracing mode (60_exceptions.md R486, D12) -/

theorem tracedBy_eq_some {s : State} {w : Word} {t : Nat} :
    tracedBy s w = some t ↔ readT w.c12 = .legal (.selector t) ∧ (s.flag 20 = true ∨ s.flag (20 + t) = true) := by
  unfold tracedBy
  split
  · next u hu =>
    rw [hu, TReading.legal.injEq, TDigit.selector.injEq]
    constructor
    · intro h
      split at h
      · next hf =>
        cases h
        exact ⟨rfl, by simpa using hf⟩
      · cases h
    · rintro ⟨rfl, hf⟩
      simp [hf]
  · next hno => simpa using fun h => absurd h (hno t)

/-- The tracing mode concerns no word but one with a selector whose flip-flops are not both reset. -/
theorem tracedBy_eq_none {s : State} {w : Word}
    (h : ∀ t, readT w.c12 = .legal (.selector t) → s.flag 20 = false ∧ s.flag (20 + t) = false) :
    tracedBy s w = none := by
  rw [Option.eq_none_iff_forall_ne_some]
  intro t ht
  obtain ⟨hread, hflag⟩ := tracedBy_eq_some.1 ht
  obtain ⟨h20, h20t⟩ := h t hread
  simp [h20, h20t] at hflag

/-- A word without a legal T-digit does not concern the tracing mode. -/
theorem tracedBy_of_not_legal {s : State} {w : Word} (h : ∀ t, readT w.c12 ≠ .legal t) : tracedBy s w = none :=
  tracedBy_eq_none fun _ ht => absurd ht (h _)

/-- Under an untraced T-digit the rest of the word decides. -/
theorem untracedT_spec {s : State} {w : Word} (h : untracedT s w.c12) :
    (∃ t, readT w.c12 = .legal t) ∧ tracedBy s w = none := by
  rcases h with hperiod | ⟨t, ht0, hdigit, h20, h20t⟩
  · exact ⟨⟨.untraced, by rw [hperiod]; rfl⟩, tracedBy_eq_none fun _ ht => by simp [hperiod, readT] at ht⟩
  · have hread : readT w.c12 = .legal (.selector t.val) := hdigit ▸ readT_digit ht0
    refine ⟨⟨_, hread⟩, tracedBy_eq_none fun u hu => ?_⟩
    obtain rfl : t.val = u := by simpa [hread] using hu
    exact ⟨h20, h20t⟩

/-! ### The fetch (30_encoding.md R98, 20_memory.md R63, R65, R78) -/

theorem fetch_prefetched {s : State} (h : prefetched s = true) : fetch s = .error (.refused (.prefetched s.pc)) := by
  simp [fetch, h]

theorem fetch_constant {s : State} (hp : prefetched s = false) (h : s.pc = 99900) :
    fetch s = .error (.refused .constantFetch) := by
  simp [fetch, hp, region_constant.2 h]

theorem fetch_unmapped {s : State} (hp : prefetched s = false) (h : region s.inst s.pc = .unmapped) :
    fetch s = .error (.refused (.unmapped s.pc)) := by
  simp [fetch, hp, h, read1]

theorem fetch_mapped {s : State} (hp : prefetched s = false) (hmap : region s.inst s.pc ≠ .unmapped)
    (hconst : s.pc ≠ 99900) : fetch s = .ok (s.load s.pc) := by
  have hne : region s.inst s.pc ≠ .constant := fun h => hconst (region_constant.1 h)
  have hread : read1 s s.pc = .ok (s.load s.pc) := read1_eq_ok.2 ⟨hmap, rfl⟩
  simp [fetch, hp, hread]

/-- The count of turns does not concern the fetch. -/
@[simp] theorem fetch_turn (s : State) : fetch s.turn = fetch s := rfl

/-! ### The step of a unit that is running with no event pending -/

section Running
variable {s : State} (hsched : s.schedule = []) (hrun : s.stopped = false) (htrap : s.trap = none)
include hsched hrun htrap

/-- What stops the fetch stops the step. -/
theorem step_of_fetch_stop {e : Stop} (h : fetch s = .error e) : step s = outcome (.error e) := by
  simp [step_of_no_schedule hsched, cuTurn, hrun, htrap, h]

/-- A fetched word is run. -/
theorem step_of_fetch {w : Word} (h : fetch s = .ok w) : step s = runWord w s.turn := by
  simp [step_of_no_schedule hsched, cuTurn, hrun, htrap, h]

end Running

/-! ### What the cycle makes of a fetched word (30_encoding.md R98) -/

theorem runWord_instr {s : State} {w : Word} {i : Instr} (huntraced : tracedBy s w = none) (h : decode w = .instr i) :
    runWord w s = settle i s (exec i s) := by simp [runWord, huntraced, h]

theorem runWord_traced {s : State} {w : Word} {t : Nat} (h : tracedBy s w = some t) :
    runWord w s = .refused (.tracingMode t) := by simp [runWord, h]

theorem runWord_ignoreSign {s : State} {w : Word} (h : readT w.c12 = .ignoreSign) :
    runWord w s = .refused .indirectAddressing := by
  have huntraced : tracedBy s w = none := tracedBy_of_not_legal (by simp [h])
  simp [runWord, huntraced, decode_indirect h]

theorem runWord_illegalT {s : State} {w : Word} (h : readT w.c12 = .illegal) :
    runWord w s = .next (s.raise .error [ffDecoding]) := by
  have huntraced : tracedBy s w = none := tracedBy_of_not_legal (by simp [h])
  simp [runWord, huntraced, decode_illegalT h]

theorem runWord_nonNumeric {s : State} {w : Word} (ht : untracedT s w.c12) (hnum : (slice w 11 1).all isNum = false) :
    runWord w s = .refused .nonNumericField := by
  obtain ⟨⟨t, hread⟩, huntraced⟩ := untracedT_spec ht
  simp [runWord, huntraced, decode_nonNumeric hread hnum]

theorem runWord_unassigned {s : State} {w : Word} (ht : untracedT s w.c12) (hnum : (slice w 11 1).all isNum = true)
    (hn : num (slice w 11 10) ∈ unassignedNumbers) :
    runWord w s = .fault (.illegalInstruction (num (slice w 11 10))) := by
  obtain ⟨⟨t, hread⟩, huntraced⟩ := untracedT_spec ht
  simp [runWord, huntraced, decode_unassigned hread hnum (instrOfNumber_unassigned hn _)]

/-! ### The statements -/

/-- Settles O5: the step is the decoded instruction settled, and settling asks for the decision that refuses. -/
theorem stepRunsInstruction : Obligations.StepRunsInstruction := by
  intro s i hsched hrun htrap hp hmap hconst hdec hflags
  obtain ⟨hread, -⟩ := decode_eq_instr.1 hdec
  have huntraced : tracedBy s.turn (s.load s.pc) = none :=
    tracedBy_eq_none fun t ht => hflags t (by simpa [hread] using ht)
  have hstep : step s = settle i s.turn (exec i s.turn) := by
    rw [step_of_fetch hsched hrun htrap (fetch_mapped hp hmap hconst), runWord_instr huntraced hdec]
  refine ⟨fun t ht hno => ?_, fun t d ht hd => ⟨fun hstrict => ?_, fun hfree => ?_⟩, fun f hf => ?_, fun r hr => ?_⟩
  · exact hstep.trans (settle_eq_next.2 ⟨t, ht, .inl hno, rfl⟩)
  · simp [hstep, settle, ht, hd, hstrict]
  · exact hstep.trans (settle_eq_next.2 ⟨t, ht, .inr hfree, rfl⟩)
  · simp [hstep, settle, hf]
  · simp [hstep, settle, hr]

/-- Settles O6: each stop in the order in which the cycle meets it. -/
theorem wordsThatAreNoInstruction : Obligations.WordsThatAreNoInstruction := by
  intro s hsched hrun htrap
  refine ⟨fun hp => ?_, fun hp => ⟨fun hun => ?_, fun hconst => ?_, fun hmap hconst => ?_⟩⟩
  · exact step_of_fetch_stop hsched hrun htrap (fetch_prefetched hp)
  · exact step_of_fetch_stop hsched hrun htrap (fetch_unmapped hp hun)
  · exact step_of_fetch_stop hsched hrun htrap (fetch_constant hp hconst)
  rw [step_of_fetch hsched hrun htrap (fetch_mapped hp hmap hconst)]
  generalize s.load s.pc = w
  refine ⟨fun hignore => ?_, fun t ht0 hdigit hflag => ?_, fun ht hnum => ?_, fun n hn ht hnum hnumber => ?_⟩
  · exact runWord_ignoreSign (by rw [hignore]; rfl)
  · exact runWord_traced (tracedBy_eq_some.2 ⟨hdigit ▸ readT_digit ht0, hflag⟩)
  · exact runWord_nonNumeric ht hnum
  · have hvalue : num (slice w 11 10) = n := by rw [hnumber, num_dig_of_lt (unassignedNumbers_lt n hn)]
    rw [runWord_unassigned (s := s.turn) ht hnum (by rwa [hvalue]), hvalue]

/-- Settles O7: the cycle raises the error of FF 49 and runs nothing. -/
theorem illegalTDigit : Obligations.IllegalTDigit := by
  intro s hsched hrun htrap hp hmap hconst hperiod hignore hdigit
  have hread := readT_eq_illegal hperiod hignore hdigit
  refine ⟨s.turn.raise .error [ffDecoding], ?_, rfl, fun k => ?_, by simp, by simp, by simp, by simp⟩
  · rw [step_of_fetch hsched hrun htrap (fetch_mapped hp hmap hconst), runWord_illegalT hread]
  · rw [flag_raise _ _ _ _ (by decide), flag_congr (State.turn_ff s), Bool.or_comm]
    simp [ffDecoding, masterOf]

/-! ### The effective M-digits (30_encoding.md R96) -/

/-- Settles O19: the effective M-digits with and without an index register; five digits spell the modifier back. -/
theorem effectiveAddress : Obligations.EffectiveAddress := by
  intro s o
  have hne : s.hasReg o.b = true → o.b ≠ 0 := fun hreg => Nat.ne_of_gt (hasReg_range hreg).1
  refine ⟨fun hb => ?_, fun d hreg hd hd5 hsum => ?_, fun hreg => ?_, fun hb hreg => ?_⟩
  · exact effM_eq_ok.2 (.inl ⟨hb, rfl⟩)
  · have hnum : num (slice (s.reg o.b) 5 1) = d := by rw [hd, num_dig_of_lt (Nat.lt_succ_of_le hd5)]
    exact effM_eq_ok.2 (.inr ⟨hne hreg, hreg, by rw [hnum, if_pos hsum]⟩)
  · refine ⟨_, ?_, effM_eq_ok.2 (.inr ⟨hne hreg, hreg, rfl⟩)⟩
    split <;> omega
  · have hmissing : getReg s o.b = .error (.refused (.missingRegister o.b)) := by simp [getReg, hreg]
    simp [effM, hb, hmissing]

end Sys2Proof.Machine
end

section
/-! Sums (40_arithmetic_add_sub.md), what all of them share: the signs of a sum in the words of the statements (R142 to R145), the
registers and the contingencies it leaves (R140, R149; 60_exceptions.md R471 to R473), and what each of the eleven instructions
answers. -/

namespace Sys2Proof.Machine
open Sys2Proof

/-! ### The signs of a sum -/

theorem plain_iff {c : Chr} : plain c = true ↔ c = .d 0 ∨ c = .minus := by simp [plain]

theorem ordinary_iff {c : Chr} : ordinary c = true ↔ plain c = true ∨ c = .period := by simp [ordinary]

theorem ordinary_of_plain {c : Chr} (h : plain c = true) : ordinary c = true := ordinary_iff.2 (.inl h)

/-- The sign of an algebraic number is no period. -/
theorem cls_ne_p_of_plain {c : Chr} (h : plain c = true) : cls c ≠ .p := by
  rcases plain_iff.1 h with rfl | rfl <;> decide

theorem plain_signOf (v : Int) : plain (signOf v) = true := by
  unfold signOf
  split <;> decide

theorem plain_zeroSign (sa sm : Chr) : plain (zeroSign sa sm) = true := by
  unfold zeroSign
  split <;> decide

/-- Inverting the sign of a number negates it (R142). -/
theorem signed_usedSign {c : Chr} (h : plain c = true) (sub : Bool) (q : Nat) :
    signed (usedSign sub c) q = if sub then -signed c q else signed c q := by
  cases sub with
  | false => rfl
  | true => rcases plain_iff.1 h with rfl | rfl <;> simp [usedSign, inv, signed]

/-- The value of a sum is that of the two operands under the signs they are used with. -/
theorem sumValue_eq (sa : Chr) {sm : Chr} (h : plain sm = true) (sub : Bool) (p q : Nat) :
    sumValue sa sm sub p q = signed sa p + signed (usedSign sub sm) q := by rw [sumValue, signed_usedSign h]

theorem natAbs_signed (c : Chr) (v : Nat) : (signed c v).natAbs = v := by
  unfold signed
  split <;> simp

/-- Signed numbers that cancel have the same magnitude. -/
theorem eq_of_signed_add_eq_zero {sa sm : Chr} {p q : Nat} (h : signed sa p + signed sm q = 0) : p = q := by
  have hp := natAbs_signed sa p
  have hq := natAbs_signed sm q
  omega

theorem natAbs_signed_add_le (sa sm : Chr) (p q : Nat) : (signed sa p + signed sm q).natAbs ≤ p + q := by
  have hp := natAbs_signed sa p
  have hq := natAbs_signed sm q
  omega

/-- The sign under a period: that of the other number, as it is used (R142 (iv), (v)). -/
theorem periodSign_cases {sa sm sg : Chr} {sub : Bool} (h : periodSign sa sm sub = some sg) :
    (sm = .period ∧ ordinary sa = true ∧ sg = sa) ∨ (sa = .period ∧ plain sm = true ∧ sg = usedSign sub sm) := by
  unfold periodSign at h
  split at h
  · next hm =>
    split at h
    · next ha => exact .inl ⟨hm, ha, (Option.some.inj h).symm⟩
    · cases h
  · split at h
    · next hp =>
      obtain ⟨rfl, hplain⟩ := hp
      refine .inr ⟨rfl, hplain, (Option.some.inj h).symm.trans ?_⟩
      cases sub with
      | false => rfl
      | true => rcases plain_iff.1 hplain with rfl | rfl <;> rfl
    · cases h

/-- Two algebraic numbers have no period. -/
theorem periodSign_of_plain {sa sm : Chr} (ha : plain sa = true) (hm : plain sm = true) (sub : Bool) :
    periodSign sa sm sub = none := by
  have hne : ∀ c, plain c = true → c ≠ .period := by
    rintro c hc rfl
    exact absurd hc (by decide)
  simp only [periodSign, if_neg (hne sm hm), hne sa ha, false_and, if_false]

/-- Both S-digits under a period are ordinary. -/
theorem ordinary_of_periodSign {sa sm sg : Chr} {sub : Bool} (h : periodSign sa sm sub = some sg) :
    ordinary sa = true ∧ ordinary sm = true := by
  rcases periodSign_cases h with ⟨rfl, ha, -⟩ | ⟨rfl, hm, -⟩
  · exact ⟨ha, rfl⟩
  · exact ⟨rfl, ordinary_of_plain hm⟩

/-- A sum has a result only under ordinary signs. -/
theorem ordinary_of_sumResult {sa sm sg : Chr} {sub : Bool} {p q r : Nat} (h : sumResult sa sm sub p q sg r) :
    ordinary sa = true ∧ ordinary sm = true := by
  rcases h with ⟨ha, hm, -⟩ | ⟨hsg, -⟩
  · exact ⟨ordinary_of_plain ha, ordinary_of_plain hm⟩
  · exact ordinary_of_periodSign hsg

/-! ### The plan of a sum (R142, R145) -/

theorem signPlan_of_plain {sa sm : Chr} (ha : plain sa = true) (hm : plain sm = true) (sub : Bool) :
    signPlan sa sm sub = .algebraic sa (usedSign sub sm) := by
  rw [signPlan, if_neg (cls_ne_p_of_plain hm), if_neg (cls_ne_p_of_plain ha)]

theorem signPlan_of_periodSign {sa sm sg : Chr} {sub : Bool} (h : periodSign sa sm sub = some sg) :
    signPlan sa sm sub = .addMagnitudes sg := by
  rcases periodSign_cases h with ⟨rfl, -, rfl⟩ | ⟨rfl, hm, rfl⟩
  · rfl
  · rw [signPlan, if_neg (cls_ne_p_of_plain hm), if_pos (by rfl)]

/-- No rule of the arithmetic forbids an ordinary sign. -/
theorem cls_of_ordinary {c : Chr} (h : ordinary c = true) : cls c ≠ .nz ∧ cls c ≠ .ot := by
  rw [← not_or, cls_nz_or_ot, h]
  decide

theorem fxPlan_of_ordinary {sa sm : Chr} (ha : ordinary sa = true) (hm : ordinary sm = true) (sub double : Bool) :
    fxPlan sa sm sub double = some (signPlan sa sm sub) := by
  simp [fxPlan, cls_of_ordinary ha, cls_of_ordinary hm]

theorem flPlan_of_ordinary {sa sm : Chr} (ha : ordinary sa = true) (hm : ordinary sm = true) (sub : Bool) :
    flPlan sa sm sub = some (signPlan sa sm sub) := by
  simp [flPlan, cls_of_ordinary ha, cls_of_ordinary hm]

/-! ### What a sum leaves (R140, R149; 60_exceptions.md R472, R473) -/

/-- The register of a deposit holds the word deposited. -/
theorem reg_deposit1 {s : State} {r : Nat} (h : s.hasReg r = true) (v : Result1) : (s.deposit1 r v).reg r = v.w := by
  rw [State.deposit1, reg_congr (s := s.setReg r v.w) (by simp), reg_setReg_same h]

/-- A register written with the word it holds. -/
theorem setReg_reg (s : State) (r : Nat) : s.setReg r (s.reg r) = s := by
  suffices h : putReg s.x r (s.reg r) = s.x by rw [State.setReg, h]
  cases r with
  | zero => rfl
  | succ k =>
    refine Vector.ext fun j hj => ?_
    by_cases hkj : k = j
    · subst hkj
      simp [putReg, State.reg, hj]
    · simp [putReg, hkj]

/-- `u` is `s` but for the fast registers. -/
structure OnlyRegisters (s u : State) : Prop where
  ff : u.ff = s.ff
  mem : u.mem = s.mem
  run : SameRun s u

theorem onlyRegisters_setReg (s : State) (r : Nat) (w : Word) : OnlyRegisters s (s.setReg r w) :=
  ⟨rfl, rfl, by constructor <;> rfl⟩

theorem onlyRegisters_setPair (s : State) (r : Nat) (h l : Word) : OnlyRegisters s (s.setPair r h l) :=
  ⟨rfl, rfl, by constructor <;> rfl⟩

/-- Contingencies raised after the registers are written and C is stepped. -/
theorem OnlyRegisters.raisedAs {s u : State} (hu : OnlyRegisters s u) {k : Nat} {more : List Nat}
    (hks : ∀ j ∈ k :: more, j < 100) :
    raisedAs s (u.next.raiseContingency (k :: more)) k more ∧ inSequence s (u.next.raiseContingency (k :: more)) := by
  refine ⟨⟨rfl, fun j => ?_⟩, ?_, ?_⟩
  · have hflag : u.next.flag j = s.flag j := flag_congr hu.ff j
    rw [State.raiseContingency, flag_raise _ _ _ _ hks, hflag, Bool.or_comm]
    simp [masterOf, Bool.or_assoc]
  · simp [hu.run.pc, hu.run.inst]
  · simp [hu.run.c2]

theorem lt_of_mem_rangeFlags (e : Int) : ∀ k ∈ rangeFlags e, k < 100 := by
  unfold rangeFlags
  split_ifs <;> decide

theorem rangeFlags_of_two_digits {e : Int} (h0 : 0 ≤ e) (h99 : e ≤ 99) : rangeFlags e = [] := by
  rw [rangeFlags, if_neg (by omega), if_neg (by omega)]

/-! ### What each instruction answers -/

section
variable {o : Fields} {s : State} {ea : Nat} {i : Instr} {sub : Bool}

/-- 01 and 11 (R160, R166). -/
theorem exec_fixedSum (hea : effM s o = .ok ea) (hi : (i, sub) ∈ [(Instr.ax o, false), (.nx o, true)])
    (hthere : operandsThere i s ea = true) :
    exec i s = .next (s.deposit1 o.a (fxAdd1 sub (s.reg o.a) (s.load ea) s.tick)) := by
  simp only [List.mem_cons, List.not_mem_nil, or_false, Prod.mk.injEq] at hi
  rcases hi with ⟨rfl, rfl⟩ | ⟨rfl, rfl⟩ <;> exact (arithA_answers o s _ _).2 ⟨ea, hea, hthere, rfl⟩

/-- 05 and 15 (R164, R169). -/
theorem exec_fixedSumPair (hea : effM s o = .ok ea) (hi : (i, sub) ∈ [(Instr.aax o, false), (.nnx o, true)])
    (hthere : operandsThere i s ea = true) :
    exec i s = .next (s.deposit2 o.a
      (fxAdd2 sub (s.reg o.a, s.reg (o.a + 1)) (s.load ea, s.load (ea + 1)) s.tick)) := by
  simp only [List.mem_cons, List.not_mem_nil, or_false, Prod.mk.injEq] at hi
  rcases hi with ⟨rfl, rfl⟩ | ⟨rfl, rfl⟩ <;> exact (arithPair_answers o s _ _).2 ⟨ea, hea, hthere, rfl⟩

/-- 02, 12, 04, 14 and 03 (R161 to R163, R167, R168). -/
theorem exec_floatSum {d : Nat} {sm : Chr} (hea : effM s o = .ok ea) (hi : (i, d, sm, sub) ∈ singleSums o (s.load ea))
    (hthere : operandsThere i s ea = true) :
    exec i s = .next (s.deposit1 d (flAddSigned sm sub (s.reg o.a) (s.load ea) s.tick)) := by
  simp only [singleSums, List.mem_cons, List.not_mem_nil, or_false, Prod.mk.injEq] at hi
  rcases hi with ⟨rfl, rfl, rfl, rfl⟩ | ⟨rfl, rfl, rfl, rfl⟩ | ⟨rfl, rfl, rfl, rfl⟩ | ⟨rfl, rfl, rfl, rfl⟩ |
    ⟨rfl, rfl, rfl, rfl⟩
  · exact (arithA_answers o s _ _).2 ⟨ea, hea, hthere, rfl⟩
  · exact (arithA_answers o s _ _).2 ⟨ea, hea, hthere, rfl⟩
  · exact (arithUp_answers o s _ _).2 ⟨ea, hea, hthere, rfl⟩
  · exact (arithUp_answers o s _ _).2 ⟨ea, hea, hthere, rfl⟩
  · exact (arithA_answers o s _ _).2 ⟨ea, hea, hthere, rfl⟩

/-- 06 and 16 (R165, R170). -/
theorem exec_floatSumPair (hea : effM s o = .ok ea) (hi : (i, sub) ∈ [(Instr.aa o, false), (.nn o, true)])
    (hthere : operandsThere i s ea = true) :
    exec i s = .next (s.deposit2 o.a
      (flAdd2 sub (s.reg o.a, s.reg (o.a + 1)) (s.load ea, s.load (ea + 1)) s.tick)) := by
  simp only [List.mem_cons, List.not_mem_nil, or_false, Prod.mk.injEq] at hi
  rcases hi with ⟨rfl, rfl⟩ | ⟨rfl, rfl⟩ <;> exact (arithPair_answers o s _ _).2 ⟨ea, hea, hthere, rfl⟩

end

end Sys2Proof.Machine
end

section
/-! Fixed-point sums (40_arithmetic_add_sub.md R142 to R144, R149, R160, R164, R166, R169): the sum in the words of the statements,
the words it is stored in, and its overflow. -/

namespace Sys2Proof.Machine
open Sys2Proof

/-! ### The sum (R143) -/

section
variable {sa sm sg : Chr} {sub : Bool} {p q r : Nat}

/-- Sign and magnitude of a sum that is not zero, or of one under a period. -/
theorem fxSum_of_sumResult (h : sumResult sa sm sub p q sg r) : fxSum (signPlan sa sm sub) sa sm sub p q = (sg, r) := by
  rcases h with ⟨ha, hm, hne, rfl, rfl⟩ | ⟨hsg, rfl⟩
  · rw [signPlan_of_plain ha hm]
    rw [sumValue_eq sa hm] at hne ⊢
    simp only [fxSum, hne, if_false, signOf]
  · rw [signPlan_of_periodSign hsg]
    rfl

/-- A zero sum of signed numbers has one of their signs. -/
theorem fxSum_of_zero (ha : plain sa = true) (hm : plain sm = true) (h0 : sumValue sa sm sub p q = 0) :
    ∃ sg, plain sg = true ∧ fxSum (signPlan sa sm sub) sa sm sub p q = (sg, 0) := by
  refine ⟨_, plain_zeroSign sa (usedSign sub sm), ?_⟩
  rw [sumValue_eq sa hm] at h0
  simp [signPlan_of_plain ha hm, fxSum, h0]

end

/-! ### The words of the sum -/

section
variable {sub : Bool} {tick : Nat} {sg : Chr} {r : Nat}

/-- A sum in one word, or its overflow. -/
theorem fxAdd1_of_plan {a m : Word} {plan : AddPlan} (hplan : fxPlan a.c12 m.c12 sub false = some plan)
    (h : fxSum plan a.c12 m.c12 sub (fxmag a) (fxmag m) = (sg, r)) :
    fxAdd1 sub a m tick = if r < 10 ^ 11 then ⟨fxWord sg r, []⟩ else ⟨overflowWord plan tick, [ffFixedOver]⟩ := by
  simp only [fxAdd1, hplan, h]

/-- A sum in two words, or its overflow. -/
theorem fxAdd2_of_plan {a m : Word × Word} {plan : AddPlan} (hplan : fxPlan a.1.c12 m.1.c12 sub true = some plan)
    (h : fxSum plan a.1.c12 m.1.c12 sub (dfxmag a.1 a.2) (dfxmag m.1 m.2) = (sg, r)) :
    fxAdd2 sub a m tick =
      if r < 10 ^ 22 then ⟨fxWord sg (r / 10 ^ 11), fxWord sg (r % 10 ^ 11), []⟩
      else ⟨drawn tick 0, drawn tick 1, [ffFixedOver]⟩ := by
  simp only [fxAdd2, hplan, h, fxPair]

/-- Under one numeric sign the sum carries it, whatever its magnitude (R142 (iii)). -/
theorem fxAdd1_of_numericSign {a m : Word} (h : fxPlan a.c12 m.c12 sub false = some (.numericSign sg)) :
    (fxAdd1 sub a m tick).w.c12 = sg := by
  rw [fxAdd1_of_plan h rfl]
  split <;> rfl

end

/-- The one numeric sign is that of (A) or that of (M) (R142 (iii)). -/
theorem fxPlan_numericSign {sa sm : Chr} (sub : Bool) :
    (numericSign sa = true → ordinary sm = true → fxPlan sa sm sub false = some (.numericSign sa)) ∧
    (ordinary sa = true → numericSign sm = true → fxPlan sa sm sub false = some (.numericSign sm)) := by
  have apart : ∀ c, (numericSign c = true → foreignSign c = false) ∧
      (ordinary c = true → foreignSign c = false ∧ numericSign c = false) := by
    refine fun c => ⟨fun hn => ?_, fun ho => ?_⟩
    · simp only [numericSign, Bool.and_eq_true] at hn
      simp [foreignSign, hn.1]
    · have hneither := mt (numericSign_or_foreignSign c).1 (by simp [ho])
      simpa [and_comm] using hneither
  refine ⟨fun ha hm => ?_, fun ha hm => ?_⟩
  · obtain ⟨hm1, hm2⟩ := (apart sm).2 hm
    simp [fxPlan_single, fixedAnomaly, ha, (apart sa).1 ha, hm1, hm2]
  · obtain ⟨ha1, ha2⟩ := (apart sa).2 ha
    simp [fxPlan_single, fixedAnomaly, hm, (apart sm).1 hm, ha1, ha2]

/-! ### What the instructions store -/

section
variable {o : Fields} {s : State} {ea : Nat} {i : Instr} {sub : Bool} {sg : Chr} {r : Nat}

/-- 01 and 11 under ordinary signs. -/
theorem exec_fixedSum_ordinary (hea : effM s o = .ok ea) (hi : (i, sub) ∈ [(Instr.ax o, false), (.nx o, true)])
    (hthere : operandsThere i s ea = true)
    (hord : ordinary (s.reg o.a).c12 = true ∧ ordinary (s.load ea).c12 = true)
    (hsum : fxSum (signPlan (s.reg o.a).c12 (s.load ea).c12 sub) (s.reg o.a).c12 (s.load ea).c12 sub (fxmag (s.reg o.a))
      (fxmag (s.load ea)) = (sg, r)) :
    exec i s = .next (s.deposit1 o.a (if r < 10 ^ 11 then ⟨fxWord sg r, []⟩
      else ⟨overflowWord (signPlan (s.reg o.a).c12 (s.load ea).c12 sub) s.tick, [ffFixedOver]⟩)) := by
  rw [exec_fixedSum hea hi hthere, fxAdd1_of_plan (fxPlan_of_ordinary hord.1 hord.2 sub false) hsum]

/-- 05 and 15 under ordinary signs. -/
theorem exec_fixedSumPair_ordinary (hea : effM s o = .ok ea) (hi : (i, sub) ∈ [(Instr.aax o, false), (.nnx o, true)])
    (hthere : operandsThere i s ea = true)
    (hord : ordinary (s.reg o.a).c12 = true ∧ ordinary (s.load ea).c12 = true)
    (hsum : fxSum (signPlan (s.reg o.a).c12 (s.load ea).c12 sub) (s.reg o.a).c12 (s.load ea).c12 sub
      (dfxmag (s.reg o.a) (s.reg (o.a + 1))) (dfxmag (s.load ea) (s.load (ea + 1))) = (sg, r)) :
    exec i s = .next (s.deposit2 o.a (if r < 10 ^ 22 then ⟨fxWord sg (r / 10 ^ 11), fxWord sg (r % 10 ^ 11), []⟩
      else ⟨drawn s.tick 0, drawn s.tick 1, [ffFixedOver]⟩)) := by
  have hplan := fxPlan_of_ordinary hord.1 hord.2 sub true
  rw [exec_fixedSumPair hea hi hthere]
  exact congrArg (fun v => Host.Outcome.next (s.deposit2 o.a v)) (fxAdd2_of_plan hplan hsum)

/-- 01 and 11 in range: one word, and nothing raised. -/
theorem exec_fixedSum_stored (hea : effM s o = .ok ea) (hi : (i, sub) ∈ [(Instr.ax o, false), (.nx o, true)])
    (hthere : operandsThere i s ea = true)
    (hsum : sumResult (s.reg o.a).c12 (s.load ea).c12 sub (fxmag (s.reg o.a)) (fxmag (s.load ea)) sg r) (hr : r < 10 ^ 11) :
    exec i s = .next ((s.setReg o.a (fxWord sg r)).next) := by
  rw [exec_fixedSum_ordinary hea hi hthere (ordinary_of_sumResult hsum) (fxSum_of_sumResult hsum), if_pos hr, deposit1_quiet]

/-- 01 and 11 with a zero result. -/
theorem exec_fixedSum_zero (hea : effM s o = .ok ea) (hi : (i, sub) ∈ [(Instr.ax o, false), (.nx o, true)])
    (hthere : operandsThere i s ea = true) (ha : plain (s.reg o.a).c12 = true) (hm : plain (s.load ea).c12 = true)
    (h0 : sumValue (s.reg o.a).c12 (s.load ea).c12 sub (fxmag (s.reg o.a)) (fxmag (s.load ea)) = 0) :
    ∃ sg, plain sg = true ∧ exec i s = .next ((s.setReg o.a (fxWord sg 0)).next) := by
  obtain ⟨sg, hsg, hsum⟩ := fxSum_of_zero ha hm h0
  refine ⟨sg, hsg, ?_⟩
  rw [exec_fixedSum_ordinary hea hi hthere ⟨ordinary_of_plain ha, ordinary_of_plain hm⟩ hsum, if_pos (by decide),
    deposit1_quiet]

end

/-! ### The statements -/

/-- Settles O20: the sum and the difference are the two cases of `sumValue`. -/
theorem fixedAdd : Obligations.FixedAdd := by
  intro o s ea hea hread hreg ha hm
  have hthere : (readable s ea && s.hasReg o.a) = true := by rw [hread, hreg]; rfl
  have both : ∀ (i : Instr) (sub : Bool), (i, sub) ∈ [(Instr.ax o, false), (.nx o, true)] →
      operandsThere i s ea = true → ∀ v : Int,
      v = sumValue (s.reg o.a).c12 (s.load ea).c12 sub (fxmag (s.reg o.a)) (fxmag (s.load ea)) →
      (v ≠ 0 → v.natAbs < 10 ^ 11 → exec i s = .next ((s.setReg o.a (fxWord (signOf v) v.natAbs)).next)) ∧
      (v = 0 → ∃ sg, plain sg = true ∧ exec i s = .next ((s.setReg o.a (fxWord sg 0)).next)) := by
    rintro i sub hi hok v rfl
    exact ⟨fun hne hlt => exec_fixedSum_stored hea hi hok (.inl ⟨ha, hm, hne, rfl, rfl⟩) hlt,
      exec_fixedSum_zero hea hi hok ha hm⟩
  exact ⟨both (.ax o) false (by simp) hthere, both (.nx o) true (by simp) hthere⟩

/-- Settles O21: each combination of a period with an ordinary sign has its `periodSign`. -/
theorem fixedAddPeriod : Obligations.FixedAddPeriod := by
  intro o s ea hea hread hreg hlt
  have hthere : (readable s ea && s.hasReg o.a) = true := by rw [hread, hreg]; rfl
  have add : ∀ sg, periodSign (s.reg o.a).c12 (s.load ea).c12 false = some sg →
      exec (.ax o) s = .next ((s.setReg o.a (fxWord sg (fxmag (s.reg o.a) + fxmag (s.load ea)))).next) :=
    fun sg hsg => exec_fixedSum_stored (sub := false) hea (by simp) hthere (.inr ⟨hsg, rfl⟩) hlt
  have subtract : ∀ sg, periodSign (s.reg o.a).c12 (s.load ea).c12 true = some sg →
      exec (.nx o) s = .next ((s.setReg o.a (fxWord sg (fxmag (s.reg o.a) + fxmag (s.load ea)))).next) :=
    fun sg hsg => exec_fixedSum_stored (sub := true) hea (by simp) hthere (.inr ⟨hsg, rfl⟩) hlt
  refine ⟨fun ha hm => ?_, fun ha hm => ?_, fun ha hm => ?_⟩
  · have hsg : ∀ sub, periodSign (s.reg o.a).c12 (s.load ea).c12 sub = some (s.reg o.a).c12 := fun sub => by
      simp [periodSign, hm, ha]
    exact ⟨add _ (hsg false), subtract _ (hsg true)⟩
  · exact ⟨add _ (by rw [ha, hm]; rfl), subtract _ (by rw [ha, hm]; rfl)⟩
  · exact ⟨add _ (by rw [ha, hm]; rfl), subtract _ (by rw [ha, hm]; rfl)⟩

/-- Settles O22: the sum in two words. -/
theorem fixedAddDouble : Obligations.FixedAddDouble := by
  rintro o s ea P Q i sub hea hsame hpair rfl rfl hi
  have hthere : operandsThere i s ea = true := by
    simp only [List.mem_cons, List.not_mem_nil, or_false, Prod.mk.injEq] at hi
    rcases hi with ⟨rfl, rfl⟩ | ⟨rfl, rfl⟩ <;> simp [operandsThere, hsame, hpair]
  refine ⟨fun sg r hsum hr => ?_, fun ha hm h0 => ?_⟩
  · rw [exec_fixedSumPair_ordinary hea hi hthere (ordinary_of_sumResult hsum) (fxSum_of_sumResult hsum), if_pos hr,
      deposit2_quiet]
  · obtain ⟨sg, hsg, hsum⟩ := fxSum_of_zero ha hm h0
    refine ⟨sg, hsg, ?_⟩
    rw [exec_fixedSumPair_ordinary hea hi hthere ⟨ordinary_of_plain ha, ordinary_of_plain hm⟩ hsum, if_pos (by decide),
      deposit2_quiet]
    rfl

/-- Settles O23: a sum past the last digit takes the other branch, which raises 44. -/
theorem fixedOverflow : Obligations.FixedOverflow := by
  intro o s ea r i sub sg hea hthere
  have raised : ∀ k ∈ [ffFixedOver], k < 100 := by decide
  refine ⟨fun hi hsum hr => ?_, fun hi hsum hr => ?_⟩
  · refine ⟨_, exec_fixedSum_ordinary hea hi hthere (ordinary_of_sumResult hsum) (fxSum_of_sumResult hsum), ?_⟩
    rw [if_neg (Nat.not_lt.2 hr)]
    exact (onlyRegisters_setReg s o.a _).raisedAs raised
  · refine ⟨_, exec_fixedSumPair_ordinary hea hi hthere (ordinary_of_sumResult hsum) (fxSum_of_sumResult hsum), ?_⟩
    rw [if_neg (Nat.not_lt.2 hr)]
    exact (onlyRegisters_setPair s o.a _ _).raisedAs raised

/-- Settles O24: whichever S-digit is numeric is the sign of the plan, and of every word the plan leads to. -/
theorem numericSignCarried : Obligations.NumericSignCarried := by
  intro o s ea hea hread hreg
  have hthere : (readable s ea && s.hasReg o.a) = true := by rw [hread, hreg]; rfl
  have both : ∀ sg, (∀ sub, fxPlan (s.reg o.a).c12 (s.load ea).c12 sub false = some (.numericSign sg)) →
      (∃ t, exec (.ax o) s = .next t ∧ (t.reg o.a).c12 = sg) ∧ (∃ t, exec (.nx o) s = .next t ∧ (t.reg o.a).c12 = sg) :=
    fun sg hplan =>
      ⟨⟨_, exec_fixedSum (sub := false) hea (by simp) hthere, by rw [reg_deposit1 hreg, fxAdd1_of_numericSign (hplan _)]⟩,
        ⟨_, exec_fixedSum (sub := true) hea (by simp) hthere, by rw [reg_deposit1 hreg, fxAdd1_of_numericSign (hplan _)]⟩⟩
  exact ⟨fun ha hm => both _ fun sub => (fxPlan_numericSign sub).1 ha hm,
    fun ha hm => both _ fun sub => (fxPlan_numericSign sub).2 ha hm⟩

end Sys2Proof.Machine
end

section
/-! The sign anomaly (40_arithmetic_add_sub.md R141, R142, R145, R146; 41_arithmetic_mul_div.md R201, R203): what each arithmetic
instruction computes under anomalous signs, and what the deposit of it leaves. -/

namespace Sys2Proof.Machine
open Sys2Proof

/-! ### The deposit (R141) -/

/-- `t` is a state after the sign anomaly of an instruction that writes the registers `rs`. -/
structure AnomalyLeft (rs : List Nat) (s t : State) : Prop where
  raised : raisedAs s t 45 []
  sequence : inSequence s t
  signs : ∀ r ∈ rs, (t.reg r).c12 = .d 0

section
variable {s : State} {r tick : Nat}

theorem AnomalyLeft.of_deposit1 {v : Result1} (h : s.hasReg r = true) (hv : v = anomaly1 tick) :
    AnomalyLeft [r] s (s.deposit1 r v) := by
  subst hv
  have hraised := (onlyRegisters_setReg s r (anomaly1 tick).w).raisedAs (k := 45) (more := []) (by decide)
  refine ⟨hraised.1, hraised.2, fun q hq => ?_⟩
  rw [List.mem_singleton.1 hq, reg_deposit1 h]
  rfl

theorem AnomalyLeft.of_deposit2 {v : Result2} (h : hasPair s r = true) (hv : v = anomaly2 tick) :
    AnomalyLeft [r, r + 1] s (s.deposit2 r v) := by
  subst hv
  obtain ⟨hr, hr'⟩ := Bool.and_eq_true_iff.1 h
  have hraised := (onlyRegisters_setPair s r (anomaly2 tick).h (anomaly2 tick).l).raisedAs (k := 45) (more := []) (by decide)
  refine ⟨hraised.1, hraised.2, fun q hq => ?_⟩
  rw [State.deposit2, reg_congr (s := s.setPair r (anomaly2 tick).h (anomaly2 tick).l) (by simp),
    reg_setPair _ _ _ _ _ hr hr']
  rcases List.mem_pair.1 hq with rfl | rfl
  · rw [if_neg (by omega), if_pos rfl]
    rfl
  · rw [if_pos rfl]
    rfl

/-- An instruction whose operands are there answers its one state. -/
theorem Answers.anomaly {out : Out} {o : Fields} {there : Nat → Bool} {u : Nat → State} {rs : List Nat} {ea : Nat}
    (hans : Answers out s o there u) (hea : effM s o = .ok ea) (hthere : there ea = true) (hleft : AnomalyLeft rs s (u ea)) :
    ∃ t, out = .next t ∧ AnomalyLeft rs s t := ⟨_, (hans _).2 ⟨ea, hea, hthere, rfl⟩, hleft⟩

end

/-! ### The sums -/

section
variable (sub : Bool) (tick : Nat)

theorem fxAdd1_anomaly {a m : Word} (h : fixedAnomaly a.c12 m.c12 = true) : fxAdd1 sub a m tick = anomaly1 tick := by
  simp only [fxAdd1, fxPlan_single, h, if_true, anomaly1]

theorem fxAdd2_anomaly {a m : Word × Word} (h : (!ordinary a.1.c12 || !ordinary m.1.c12) = true) :
    fxAdd2 sub a m tick = anomaly2 tick := by
  have hplan := Option.isNone_iff_eq_none.1 ((fxPlan_double_isNone a.1.c12 m.1.c12 sub).trans h)
  simp only [fxAdd2, hplan, anomaly2]

theorem flAddSigned_anomaly {sm : Chr} {a m : Word} (h : (!ordinary a.c12 || !ordinary sm) = true) :
    flAddSigned sm sub a m tick = anomaly1 tick := by
  have hplan := Option.isNone_iff_eq_none.1 ((flPlan_isNone a.c12 sm sub).trans h)
  simp only [flAddSigned, hplan, anomaly1]

theorem flAdd2_anomaly {a m : Word × Word} (h : (!ordinary a.1.c12 || !ordinary m.1.c12) = true) :
    flAdd2 sub a m tick = anomaly2 tick := by
  have hplan := Option.isNone_iff_eq_none.1 ((flPlan_isNone a.1.c12 m.1.c12 sub).trans h)
  simp only [flAdd2, hplan, anomaly2]

end

/-! ### The statement -/

/-- Every arithmetic instruction under anomalous signs, family by family. -/
theorem exec_anomaly {i : Instr} {s : State} {ea : Nat} {sa sm : Chr} (hea : effM s i.fields = .ok ea)
    (hthere : operandsThere i s ea = true) (hsigns : examinedSigns i s ea = some (sa, sm))
    (hbad : anomalousSigns i sa sm = true) : ∃ t, exec i s = .next t ∧ AnomalyLeft (writtenRegs i) s t := by
  have product : ∀ {a m : Chr}, (!ordinary a || !ordinary m) = true → mdAnomaly a m = true :=
    fun h => (mdAnomaly_eq _ _).trans h
  cases i with
  | ax o | nx o =>
    cases hsigns
    exact (arithA_answers o s _).anomaly hea hthere
      (.of_deposit1 (Bool.and_elim_right hthere) (fxAdd1_anomaly _ _ hbad))
  | a o | n o | am o =>
    cases hsigns
    exact (arithA_answers o s _).anomaly hea hthere
      (.of_deposit1 (Bool.and_elim_right hthere) (flAddSigned_anomaly _ _ hbad))
  | au o | nu o =>
    cases hsigns
    exact (arithUp_answers o s _).anomaly hea hthere
      (.of_deposit1 (Bool.and_elim_right (Bool.and_elim_right hthere)) (flAddSigned_anomaly _ _ hbad))
  | aax o | nnx o =>
    cases hsigns
    exact (arithPair_answers o s _).anomaly hea hthere
      (.of_deposit2 (Bool.and_elim_right hthere) (fxAdd2_anomaly _ _ hbad))
  | aa o | nn o =>
    cases hsigns
    exact (arithPair_answers o s _).anomaly hea hthere
      (.of_deposit2 (Bool.and_elim_right hthere) (flAdd2_anomaly _ _ hbad))
  | mxr o | mr o | m o | dx o | dr o =>
    cases hsigns
    exact (arithA_answers o s _).anomaly hea hthere
      (.of_deposit1 (Bool.and_elim_right hthere) (if_pos (product hbad)))
  | mu o | dur o =>
    cases hsigns
    exact (arithUp_answers o s _).anomaly hea hthere
      (.of_deposit1 (Bool.and_elim_right (Bool.and_elim_right hthere)) (if_pos (product hbad)))
  | mxe o | me o | dxe o =>
    cases hsigns
    exact (arithExt_answers o s _).anomaly hea hthere
      (.of_deposit2 (Bool.and_elim_right hthere) (if_pos (product hbad)))
  | mmx o | mm o | ddx o | dd o =>
    cases hsigns
    exact (arithPair_answers o s _).anomaly hea hthere
      (.of_deposit2 (Bool.and_elim_right hthere) (if_pos (product hbad)))
  | dse o =>
    cases hsigns
    exact (arithPairBy_answers o s _).anomaly hea hthere
      (.of_deposit2 (Bool.and_elim_right hthere) (if_pos (product hbad)))
  | _ => cases hsigns

/-- Settles O30: `exec_anomaly`, its parts named as the statement lists them. -/
theorem signAnomaly : Obligations.SignAnomaly := by
  intro i s ea sa sm hea hthere hsigns hbad
  obtain ⟨t, hexec, hleft⟩ := exec_anomaly hea hthere hsigns hbad
  exact ⟨t, hexec, hleft.raised, hleft.sequence, hleft.signs⟩

end Sys2Proof.Machine
end

section
/-! The floating-point add core (40_arithmetic_add_sub.md R147, R150; 92_eei_decisions.md D21) against the words of the statements:
the alignment, the normalized sum, the zero sum, and the bounds on the sum that is not digit-preserving. -/

namespace Sys2Proof.Machine
open Sys2Proof

/-! ### The alignment (R147) -/

theorem aligned_of_alignedTo {eh p : Nat} {o : FlOperand} (h : alignedTo eh o.e o.f p) : aligned eh o = p := by
  rw [aligned, h.2, Nat.mul_div_cancel _ (by positivity)]

/-- No digit of an operand is lost: the places dropped are zeros, or the significand is. -/
theorem digitPreserving_of_alignedTo {eh p n : Nat} {o : FlOperand} (h : alignedTo eh o.e o.f p) (hf : o.f < 10 ^ n) :
    digitPreserving (eh - o.e) o.f n = true := by
  obtain ⟨-, hp⟩ := h
  rw [digitPreserving, decide_eq_true_iff]
  by_cases hd : eh - o.e ≤ n
  · rw [Nat.min_eq_left hd, hp]
    exact ⟨Nat.mul_mod_left _ _, .inl hd⟩
  · have hlt : p * 10 ^ (eh - o.e) < 1 * 10 ^ (eh - o.e) := by
      rw [← hp, one_mul]
      exact hf.trans_le (Nat.pow_le_pow_right (by norm_num) (by omega))
    have hp0 : p = 0 := Nat.lt_one_iff.1 (Nat.lt_of_mul_lt_mul_right hlt)
    have hf0 : o.f = 0 := by rw [hp, hp0, Nat.zero_mul]
    exact ⟨by rw [hf0, Nat.zero_mod], .inr hf0⟩

/-- A digit other than zero is lost. -/
theorem digitPreserving_of_mod_ne {d f n : Nat} (h : f % 10 ^ d ≠ 0) : digitPreserving d f n = false := by
  rw [digitPreserving, decide_eq_false_iff_not]
  rintro ⟨hmod, hd | hf⟩
  · rw [Nat.min_eq_left hd] at hmod
    exact h hmod
  · exact h (by rw [hf, Nat.zero_mod])

section
variable {a m : FlOperand} {eh el p q n : Nat}

/-- Both operands at the larger exponent, with no digit lost. -/
theorem flExact_of_alignedTo (ha : alignedTo eh a.e a.f p) (hm : alignedTo eh m.e m.f q) (heh : eh = a.e ∨ eh = m.e)
    (hfa : a.f < 10 ^ n) (hfm : m.f < 10 ^ n) : flExact a m n = true ∧ max a.e m.e = eh := by
  have hale := ha.1
  have hmle := hm.1
  refine ⟨?_, by omega⟩
  unfold flExact
  split
  · next hle =>
    rw [show a.e = eh by omega]
    exact digitPreserving_of_alignedTo hm hfm
  · next hlt =>
    rw [show m.e = eh by omega]
    exact digitPreserving_of_alignedTo ha hfa

/-- The operand of smaller exponent loses a digit. -/
theorem flExact_of_dropsDigit (h : dropsDigit a.e a.f m.e m.f eh el) :
    flExact a m n = false ∧ max a.e m.e = eh ∧ min a.e m.e = el := by
  obtain ⟨hlt, ⟨ha, hm, hmod⟩ | ⟨hm, ha, hmod⟩⟩ := h
  · refine ⟨?_, by omega, by omega⟩
    rw [flExact, if_pos (by omega), ha, hm]
    exact digitPreserving_of_mod_ne hmod
  · refine ⟨?_, by omega, by omega⟩
    rw [flExact, if_neg (by omega), ha, hm]
    exact digitPreserving_of_mod_ne hmod

/-- Then the two operands have not the same magnitude. -/
theorem atExponent_ne_of_dropsDigit (h : dropsDigit a.e a.f m.e m.f eh el) : atExponent el a ≠ atExponent el m := by
  intro heq
  obtain ⟨hlt, ⟨ha, hm, hmod⟩ | ⟨hm, ha, hmod⟩⟩ := h
  · rw [atExponent, atExponent, ha, hm, Nat.sub_self, pow_zero, mul_one] at heq
    exact hmod (by rw [← heq, Nat.mul_mod_left])
  · rw [atExponent, atExponent, ha, hm, Nat.sub_self, pow_zero, mul_one] at heq
    exact hmod (by rw [heq, Nat.mul_mod_left])

/-- Two operands of two exponent digits, as one number of digits. -/
theorem atExponent_add_lt (hea : a.e < 100) (hem : m.e < 100) (hfa : a.f < 10 ^ n) (hfm : m.f < 10 ^ n) (el : Nat) :
    atExponent el a + atExponent el m < 10 ^ (n + 101) := by
  have bound : ∀ o : FlOperand, o.e < 100 → o.f < 10 ^ n → atExponent el o < 10 ^ n * 10 ^ 100 := fun o he hf =>
    Nat.mul_lt_mul_of_lt_of_le hf (Nat.pow_le_pow_right (by norm_num) (by omega)) (by positivity)
  have hpow : 10 ^ (n + 101) = 10 * (10 ^ n * 10 ^ 100) := by rw [pow_add]; ring
  have ha := bound a hea hfa
  have hm := bound m hem hfm
  rw [hpow]
  omega

end

/-! ### The normalized sum -/

theorem renorm_of_normalizedSum {n eh r f : Nat} {e : Int} (hn : 0 < n) (h : normalizedSum n eh r e f) :
    renorm eh r n = (e, f) ∧ r ≠ 0 ∧ f ≠ 0 := by
  rcases h with ⟨hcarry, rfl, rfl⟩ | ⟨hlt, z, hz, rfl, hlow, hhigh⟩
  · have h10 : 10 ≤ r := (Nat.le_self_pow (by omega) 10).trans hcarry
    exact ⟨if_pos hcarry, by omega, by omega⟩
  · have hpos : 0 < r * 10 ^ z := lt_of_lt_of_le (by positivity) hlow
    have hr : 0 < r := Nat.pos_of_mul_pos_right hpos
    have hshift : leadingZeros n r = z := leadingZeros_eq hr hlow hhigh
    refine ⟨?_, hr.ne', hpos.ne'⟩
    rw [renorm, if_neg (Nat.not_le.2 hlt), if_neg hr.ne', hshift, ← hz, add_sub_cancel_right]

theorem renorm_zero (eh n : Nat) : renorm eh 0 n = ((eh : Int) - n, 0) := by
  have hpos : 0 < 10 ^ n := by positivity
  rw [renorm, if_neg (Nat.not_le.2 hpos), if_pos rfl]

section
variable {a m : FlOperand} {eh p q n : Nat} {sa sm sg : Chr} {sub : Bool}

/-- The two plans where no digit is lost. -/
theorem flAdd_addMagnitudes_exact (hex : flExact a m n = true ∧ max a.e m.e = eh) :
    flAdd (.addMagnitudes sg) a m n = ⟨sg, (renorm eh (aligned eh a + aligned eh m) n).1,
      (renorm eh (aligned eh a + aligned eh m) n).2, decide (aligned eh a + aligned eh m = 0), false⟩ := by
  obtain ⟨hexact, rfl⟩ := hex
  simp only [flAdd, hexact, if_true]

theorem flAdd_algebraic_exact {v : Int} (hex : flExact a m n = true ∧ max a.e m.e = eh)
    (hv : signed sa (aligned eh a) + signed sm (aligned eh m) = v) :
    flAdd (.algebraic sa sm) a m n = ⟨if v < 0 then .minus else if v = 0 then zeroSign sa sm else .d 0,
      (renorm eh v.natAbs n).1, (renorm eh v.natAbs n).2, false,
      decide ((renorm eh v.natAbs n).2 = 0 ∧ (n = 20 ∨ a.e = m.e))⟩ := by
  obtain ⟨hexact, rfl⟩ := hex
  subst hv
  simp only [flAdd, hexact, if_true]

/-- A sum that is not zero, or one under a period, normalized. -/
theorem flAdd_of_sumResult {r f : Nat} {e : Int} (hn : 0 < n) (ha : alignedTo eh a.e a.f p) (hm : alignedTo eh m.e m.f q)
    (hex : flExact a m n = true ∧ max a.e m.e = eh) (hsum : sumResult sa sm sub p q sg r) (hnorm : normalizedSum n eh r e f) :
    flAdd (signPlan sa sm sub) a m n = ⟨sg, e, f, false, false⟩ := by
  obtain ⟨hren, hr, hf⟩ := renorm_of_normalizedSum hn hnorm
  rcases hsum with ⟨hpa, hpm, hne, rfl, rfl⟩ | ⟨hsg, rfl⟩
  · rw [sumValue_eq sa hpm] at hren hne ⊢
    rw [signPlan_of_plain hpa hpm,
      flAdd_algebraic_exact hex (by rw [aligned_of_alignedTo ha, aligned_of_alignedTo hm]), hren]
    simp only [hne, if_false, signOf, hf, false_and, decide_false]
  · rw [signPlan_of_periodSign hsg, flAdd_addMagnitudes_exact hex, aligned_of_alignedTo ha, aligned_of_alignedTo hm, hren,
      decide_eq_false hr]

/-- The zero sum of signed numbers has shifted out `n` places (R150). -/
theorem flAdd_zero_of_plain (ha : alignedTo eh a.e a.f p) (hm : alignedTo eh m.e m.f q)
    (hex : flExact a m n = true ∧ max a.e m.e = eh) (hpa : plain sa = true) (hpm : plain sm = true)
    (h0 : sumValue sa sm sub p q = 0) :
    flAdd (signPlan sa sm sub) a m n =
      ⟨zeroSign sa (usedSign sub sm), (eh : Int) - n, 0, false, decide (n = 20 ∨ a.e = m.e)⟩ := by
  rw [sumValue_eq sa hpm] at h0
  rw [signPlan_of_plain hpa hpm, flAdd_algebraic_exact hex (by rw [aligned_of_alignedTo ha, aligned_of_alignedTo hm, h0])]
  simp [renorm_zero]

/-- The zero sum of magnitudes has its exponent open (U9). -/
theorem flAdd_zero_of_period (hfa : a.f = 0) (hfm : m.f = 0) :
    ∃ e, flAdd (.addMagnitudes sg) a m n = ⟨sg, e, 0, true, false⟩ := by
  have hexact : flExact a m n = true := by simp [flExact, digitPreserving, hfa, hfm]
  have hzero : ∀ eh, aligned eh a + aligned eh m = 0 := fun eh => by simp [aligned, hfa, hfm]
  refine ⟨(max a.e m.e : Nat) - n, ?_⟩
  rw [flAdd_addMagnitudes_exact ⟨hexact, rfl⟩, hzero, renorm_zero, decide_eq_true rfl]

end

/-! ### The sum that is not digit-preserving (D21; log 28) -/

/-- The admissible results are near the exact sum. -/
theorem nearSum_of_admissibleSum {eh el v n f : Nat} {e : Int} (h : admissibleSum eh el v n (e, f) = true) :
    nearSum n eh el v e f := by
  simp only [admissibleSum, normalized, Bool.and_eq_true, Bool.or_eq_true, decide_eq_true_iff] at h
  obtain ⟨hshape, hnear⟩ := h
  refine ⟨hshape, min e el, (e - min e el).toNat, (el - min e el).toNat, (max e eh - min e el).toNat, by omega, by omega,
    by omega, ?_⟩
  revert hnear
  generalize (e - min e el).toNat = x, (el - min e el).toNat = y, (max e eh - min e el).toNat = z
  intro hnear
  have hcast : ((f : Int) * 10 ^ x - (v : Int) * 10 ^ y) = ((f * 10 ^ x : Nat) : Int) - ((v * 10 ^ y : Nat) : Int) := by
    push_cast
    rfl
  rw [hcast] at hnear
  generalize f * 10 ^ x = got, v * 10 ^ y = want, 10 ^ z = unit at hnear ⊢
  omega

/-- The number of digits of a positive number, by its leading zeros. -/
theorem digits_bounds {w v : Nat} (h0 : 0 < v) (h : v < 10 ^ w) :
    0 < w - leadingZeros w v ∧ 10 ^ (w - leadingZeros w v - 1) ≤ v ∧ v < 10 ^ (w - leadingZeros w v) := by
  obtain ⟨hlow, hhigh⟩ := leadingZeros_bounds h0 h
  generalize leadingZeros w v = z at hlow hhigh ⊢
  have hz : z < w := (Nat.pow_lt_pow_iff_right (a := 10) (by norm_num)).1
    ((Nat.le_mul_of_pos_left _ h0).trans_lt hhigh)
  refine ⟨by omega, ?_, ?_⟩
  · refine Nat.le_of_mul_le_mul_right (c := 10 ^ z) ?_ (by positivity)
    rwa [← pow_add, show w - z - 1 + z = w - 1 by omega]
  · refine Nat.lt_of_mul_lt_mul_right (a := 10 ^ z) ?_
    rwa [← pow_add, Nat.sub_add_cancel hz.le]

/-- The sum truncated to `n` digits is near the exact one. -/
theorem nearSum_truncateSum {el v n : Nat} (eh : Nat) (hn : 0 < n) (h0 : 0 < v) (h : v < 10 ^ (n + 101)) :
    nearSum n eh el v (truncateSum el v n).1 (truncateSum el v n).2 := by
  obtain ⟨hpos, hlow, hhigh⟩ := digits_bounds h0 h
  simp only [truncateSum]
  generalize n + 101 - leadingZeros (n + 101) v = len at hpos hlow hhigh ⊢
  by_cases hlen : n ≤ len
  · simp only [if_pos hlen]
    have hle : 10 ^ (len - n) ≤ 10 ^ (max ((el : Int) + len - n) eh - el).toNat :=
      Nat.pow_le_pow_right (by norm_num) (by omega)
    have hsplit : v < v / 10 ^ (len - n) * 10 ^ (len - n) + 10 ^ (len - n) := Nat.lt_div_mul_add (by positivity)
    have htrunc : v / 10 ^ (len - n) * 10 ^ (len - n) ≤ v := Nat.div_mul_le_self v _
    refine ⟨.inr ⟨?_, ?_⟩, el, len - n, 0, (max ((el : Int) + len - n) eh - el).toNat, by omega, by simp, by omega, ?_, ?_⟩
    · rwa [Nat.le_div_iff_mul_le (by positivity), ← pow_add, show n - 1 + (len - n) = len - 1 by omega]
    · rwa [Nat.div_lt_iff_lt_mul (by positivity), ← pow_add, show n + (len - n) = len by omega]
    · rw [pow_zero, mul_one]
      exact htrunc.trans (Nat.le_add_right _ _)
    · rw [pow_zero, mul_one]
      exact hsplit.le.trans (Nat.add_le_add_left hle _)
  · simp only [if_neg hlen]
    have hpow : 0 < 10 ^ (n - len) := by positivity
    refine ⟨.inr ⟨?_, ?_⟩, (el : Int) + len - n, 0, n - len, (max ((el : Int) + len - n) eh - (el + len - n)).toNat, by simp,
      by omega, by omega, ?_, ?_⟩
    · calc 10 ^ (n - 1) = 10 ^ (len - 1) * 10 ^ (n - len) := by rw [← pow_add]; congr 1; omega
        _ ≤ v * 10 ^ (n - len) := Nat.mul_le_mul_right _ hlow
    · calc v * 10 ^ (n - len) < 10 ^ len * 10 ^ (n - len) := Nat.mul_lt_mul_of_pos_right hhigh hpow
        _ = 10 ^ n := by rw [← pow_add]; congr 1; omega
    · rw [pow_zero, mul_one]
      exact Nat.le_add_right _ _
    · rw [pow_zero, mul_one]
      exact Nat.le_add_right _ _

theorem admissibleSign_exactSign (plan : AddPlan) (v : Int) (f : Nat) : admissibleSign plan v f (exactSign plan v) = true := by
  cases plan <;> simp [admissibleSign]

/-- `FAddInexact` is within its bounds, whether the free value is or not. -/
theorem fAddInexact_spec (plan : AddPlan) (a m : FlOperand) (eh : Nat) {el n : Nat} {v : Int} (hn : 0 < n) (h0 : v ≠ 0)
    (h : v.natAbs < 10 ^ (n + 101)) :
    ∃ e f sg, fAddInexact plan a m eh el v n = (e, f, sg) ∧ nearSum n eh el v.natAbs e f ∧
      admissibleSign plan v f sg = true := by
  unfold fAddInexact
  dsimp only
  split
  · next hfree =>
    obtain ⟨hsum, hsign⟩ := Bool.and_eq_true_iff.1 hfree
    exact ⟨_, _, _, rfl, nearSum_of_admissibleSum hsum, hsign⟩
  · exact ⟨_, _, _, rfl, nearSum_truncateSum eh hn (Int.natAbs_pos.2 h0) h, admissibleSign_exactSign plan v _⟩

section
variable {a m : FlOperand} {eh el n : Nat} {sa sm sg : Chr} {sub : Bool}

/-- Signed numbers of which one loses a digit (R147, R150). -/
theorem flAdd_inexact_of_plain (hn : 0 < n) (hdrop : dropsDigit a.e a.f m.e m.f eh el)
    (hbound : atExponent el a + atExponent el m < 10 ^ (n + 101)) (hpa : plain sa = true) (hpm : plain sm = true) :
    ∃ e f sg, nearSum n eh el (sumValue sa sm sub (atExponent el a) (atExponent el m)).natAbs e f ∧ plain sg = true ∧
      (f ≠ 0 → sg = signOf (sumValue sa sm sub (atExponent el a) (atExponent el m))) ∧
      flAdd (signPlan sa sm sub) a m n = ⟨sg, e, f, false, decide (f = 0 ∧ n = 20)⟩ := by
  obtain ⟨hexact, hmax, hmin⟩ := flExact_of_dropsDigit (n := n) hdrop
  have hexps : a.e ≠ m.e := fun heq => by
    have hlt := hdrop.1
    omega
  rw [sumValue_eq sa hpm]
  have hne : signed sa (atExponent el a) + signed (usedSign sub sm) (atExponent el m) ≠ 0 :=
    mt eq_of_signed_add_eq_zero (atExponent_ne_of_dropsDigit hdrop)
  obtain ⟨e, f, sg, hc, hnear, hsign⟩ := fAddInexact_spec (.algebraic sa (usedSign sub sm)) a m eh hn
    hne ((natAbs_signed_add_le _ _ _ _).trans_lt hbound)
  have hsg : sg = signOf (signed sa (atExponent el a) + signed (usedSign sub sm) (atExponent el m)) ∨
      (f = 0 ∧ plain sg = true) := (of_decide_eq_true hsign).imp id fun h => ⟨h.1, plain_iff.2 h.2⟩
  refine ⟨e, f, sg, hnear, ?_, fun hf => hsg.resolve_right fun h => hf h.1, ?_⟩
  · rcases hsg with rfl | ⟨-, hplain⟩
    · exact plain_signOf _
    · exact hplain
  · rw [signPlan_of_plain hpa hpm]
    simp only [flAdd, hexact, hmax, hmin, hc, Bool.false_eq_true, if_false, hexps, or_false]

/-- Magnitudes under a period of which one loses a digit. -/
theorem flAdd_inexact_of_period (hn : 0 < n) (hdrop : dropsDigit a.e a.f m.e m.f eh el)
    (hbound : atExponent el a + atExponent el m < 10 ^ (n + 101)) :
    ∃ e f, nearSum n eh el (atExponent el a + atExponent el m) e f ∧
      flAdd (.addMagnitudes sg) a m n = ⟨sg, e, f, false, false⟩ := by
  obtain ⟨hexact, hmax, hmin⟩ := flExact_of_dropsDigit (n := n) hdrop
  have hne := atExponent_ne_of_dropsDigit hdrop
  obtain ⟨e, f, sg', hc, hnear, hsign⟩ := fAddInexact_spec (.addMagnitudes sg) a m eh
    (v := ((atExponent el a + atExponent el m : Nat) : Int)) hn (by omega) hbound
  have hsg : sg' = sg := of_decide_eq_true hsign
  refine ⟨e, f, hnear, ?_⟩
  simp only [flAdd, hexact, hmax, hmin, hc, hsg, Bool.false_eq_true, if_false]

end

end Sys2Proof.Machine
end

section
/-! Floating-point sums (40_arithmetic_add_sub.md R145 to R151, R161 to R163, R165, R167, R168, R170): single and double precision
as one family of stored sums, and the statements about them. -/

namespace Sys2Proof.Machine
open Sys2Proof

/-! ### The words that are stored -/

/-- The exponent positions of a sum: two characters, the digits of an exponent from 0 to 99 (R149). -/
theorem expField_chars (tick : Nat) (e : Int) :
    ((expField e).chars tick).length = 2 ∧ (0 ≤ e → e ≤ 99 → (expField e).chars tick = dig 2 e.toNat) := by
  unfold expField
  split
  · next h => exact ⟨dig_length _ _, fun _ _ => rfl⟩
  · next h => exact ⟨slice_length _ 11 10 (by decide) (by decide), fun h0 h99 => absurd ⟨h0, h99⟩ h⟩

/-- A result stored with nothing raised. -/
theorem resultStored.quiet {i : Instr} {s : State} {put : List Chr → State} {e : Nat} (h : resultStored i s put e [])
    (he : e ≤ 99) : exec i s = .next (put (dig 2 e)).next := by
  obtain ⟨x, -, hx, hexec⟩ := h
  rwa [hx (by omega) (by omega)] at hexec

/-- Contingencies are raised after the words are written and C is stepped (60_exceptions.md R473). -/
theorem resultStored_of_exec {i : Instr} {s : State} {put : List Chr → State} {e : Int} {ks : List Nat} {x : List Chr}
    (hx : x.length = 2 ∧ (0 ≤ e → e ≤ 99 → x = dig 2 e.toNat)) (hput : OnlyRegisters s (put x)) (hks : ∀ k ∈ ks, k < 100)
    (hexec : exec i s = .next ((put x).next.raiseContingency ks)) : resultStored i s put e ks := by
  refine ⟨x, hx.1, hx.2, ?_⟩
  cases ks with
  | nil => exact hexec
  | cons k more =>
    obtain ⟨hraised, hseq⟩ := hput.raisedAs hks
    exact ⟨_, hexec, hraised, hseq, by simp, by simp [hput.mem]⟩

/-! ### Stored sums -/

/-- Under ordinary signs instruction `i` stores the sum of `a` and `m` on `n` digits: `put sg f x` is the state with the words
of the sign `sg`, the significand `f` and the exponent characters `x`. -/
structure StoresSum (n : Nat) (a m : FlOperand) (sa sm : Chr) (sub : Bool) (i : Instr) (s : State)
    (put : Chr → Nat → List Chr → State) : Prop where
  digits : 0 < n
  exponents : a.e < 100 ∧ m.e < 100
  significands : a.f < 10 ^ n ∧ m.f < 10 ^ n
  onlyRegisters : ∀ sg f x, OnlyRegisters s (put sg f x)
  exec_eq : ∀ r, ordinary sa = true → ordinary sm = true → flAdd (signPlan sa sm sub) a m n = r →
    exec i s = .next ((put r.sg r.f (r.field.chars s.tick)).next.raiseContingency (r.raised (signPlan sa sm sub)))

theorem dflsig_lt (h l : Word) : dflsig h l < 10 ^ 20 := by
  have hh := flsig_lt h
  have hl := fxmag_lt l
  unfold dflsig
  omega

section
variable {o : Fields} {s : State} {ea : Nat} {i : Instr} {sub : Bool}

/-- 02, 12, 04, 14 and 03. -/
theorem storesSum_single {d : Nat} {sm : Chr} (hea : effM s o = .ok ea) (hi : (i, d, sm, sub) ∈ singleSums o (s.load ea))
    (hthere : operandsThere i s ea = true) :
    StoresSum 9 (flOperand (s.reg o.a)) (flOperand (s.load ea)) (s.reg o.a).c12 sm sub i s
      (fun sg f x => s.setReg d (wordOf sg (x ++ dig 9 f))) where
  digits := by decide
  exponents := ⟨flexp_lt _, flexp_lt _⟩
  significands := ⟨flsig_lt _, flsig_lt _⟩
  onlyRegisters _ _ _ := onlyRegisters_setReg _ _ _
  exec_eq := by
    rintro r ha hm rfl
    rw [exec_floatSum hea hi hthere]
    simp only [flAddSigned, flPlan_of_ordinary ha hm, State.deposit1, flWord]

/-- 06 and 16. -/
theorem storesSum_double (hea : effM s o = .ok ea) (hi : (i, sub) ∈ [(Instr.aa o, false), (.nn o, true)])
    (hthere : operandsThere i s ea = true) :
    StoresSum 20 (flOperand2 (s.reg o.a, s.reg (o.a + 1))) (flOperand2 (s.load ea, s.load (ea + 1))) (s.reg o.a).c12
      (s.load ea).c12 sub i s
      (fun sg f x => s.setPair o.a (wordOf sg (x ++ dig 9 (f / 10 ^ 11))) (fxWord sg (f % 10 ^ 11))) where
  digits := by decide
  exponents := ⟨flexp_lt _, flexp_lt _⟩
  significands := ⟨dflsig_lt _ _, dflsig_lt _ _⟩
  onlyRegisters _ _ _ := onlyRegisters_setPair _ _ _ _
  exec_eq := by
    rintro r ha hm rfl
    rw [exec_floatSumPair hea hi hthere]
    simp only [flAdd2, flPlan_of_ordinary ha hm, State.deposit2, flPair, flWord]

end

section
variable {n : Nat} {a m : FlOperand} {sa sm : Chr} {sub : Bool} {i : Instr} {s : State} {put : Chr → Nat → List Chr → State}

/-- A sum whose exponent is given is stored, with the contingencies of a zero and of its exponent (R149, R150). -/
theorem StoresSum.stored (h : StoresSum n a m sa sm sub i s put) (ha : ordinary sa = true) (hm : ordinary sm = true) {sg : Chr}
    {e : Int} {f : Nat} {zero : Bool} (hsum : flAdd (signPlan sa sm sub) a m n = ⟨sg, e, f, false, zero⟩) :
    resultStored i s (put sg f) e
      ((if zero then [40] else []) ++ if (signPlan sa sm sub).inhibited then [] else rangeFlags e) := by
  refine resultStored_of_exec (expField_chars s.tick e) (h.onlyRegisters _ _ _) (fun k hk => ?_) (h.exec_eq _ ha hm hsum)
  rcases List.mem_append.1 hk with hk | hk
  · split at hk
    · rw [List.mem_singleton.1 hk]
      decide
    · cases hk
  · split at hk
    · cases hk
    · exact lt_of_mem_rangeFlags e k hk

/-- Of signed numbers the exponent's contingencies are raised. -/
theorem StoresSum.stored_plain (h : StoresSum n a m sa sm sub i s put) (ha : plain sa = true) (hm : plain sm = true) {sg : Chr}
    {e : Int} {f : Nat} {zero : Bool} (hsum : flAdd (signPlan sa sm sub) a m n = ⟨sg, e, f, false, zero⟩) :
    resultStored i s (put sg f) e ((if zero then [40] else []) ++ rangeFlags e) := by
  have hstored := h.stored (ordinary_of_plain ha) (ordinary_of_plain hm) hsum
  rwa [signPlan_of_plain ha hm] at hstored

/-- Under a period they are inhibited (R145). -/
theorem StoresSum.stored_period (h : StoresSum n a m sa sm sub i s put) {sg sg' : Chr} (hsg : periodSign sa sm sub = some sg')
    {e : Int} {f : Nat} (hsum : flAdd (signPlan sa sm sub) a m n = ⟨sg, e, f, false, false⟩) :
    resultStored i s (put sg f) e [] := by
  obtain ⟨ha, hm⟩ := ordinary_of_periodSign hsg
  have hstored := h.stored ha hm hsum
  rwa [signPlan_of_periodSign hsg] at hstored

/-- The sum that loses no digit and is not zero, with its exponent in or out of range (R147, R149). -/
theorem StoresSum.stored_exact (h : StoresSum n a m sa sm sub i s put) {eh p q r f : Nat} {e : Int} {sg : Chr}
    (ha : alignedTo eh a.e a.f p) (hm : alignedTo eh m.e m.f q) (heh : eh = a.e ∨ eh = m.e)
    (hsum : sumResult sa sm sub p q sg r) (hnorm : normalizedSum n eh r e f) :
    resultStored i s (put sg f) e (if (periodSign sa sm sub).isSome then [] else rangeFlags e) := by
  have hex := flExact_of_alignedTo ha hm heh h.significands.1 h.significands.2
  have hfl := flAdd_of_sumResult h.digits ha hm hex hsum hnorm
  rcases hsum with ⟨hpa, hpm, -⟩ | ⟨hsg, -⟩
  · rw [periodSign_of_plain hpa hpm]
    exact h.stored_plain hpa hpm hfl
  · rw [hsg]
    exact h.stored_period hsg hfl

/-- With an exponent of two digits nothing is raised. -/
theorem StoresSum.exec_exact (h : StoresSum n a m sa sm sub i s put) {eh p q r f e : Nat} {sg : Chr}
    (ha : alignedTo eh a.e a.f p) (hm : alignedTo eh m.e m.f q) (heh : eh = a.e ∨ eh = m.e)
    (hsum : sumResult sa sm sub p q sg r) (hnorm : normalizedSum n eh r e f) (he : e ≤ 99) :
    exec i s = .next (put sg f (dig 2 e)).next := by
  have hstored := h.stored_exact ha hm heh hsum hnorm
  rw [rangeFlags_of_two_digits (by omega) (by omega), ite_self] at hstored
  exact hstored.quiet he

/-- The sum that loses a digit (log 28). -/
theorem StoresSum.stored_inexact (h : StoresSum n a m sa sm sub i s put) {eh el : Nat} (hdrop : dropsDigit a.e a.f m.e m.f eh el) :
    inexactStored n eh el sa sm sub (a.f * 10 ^ (a.e - el)) (m.f * 10 ^ (m.e - el)) i s put := by
  have hbound := atExponent_add_lt h.exponents.1 h.exponents.2 h.significands.1 h.significands.2 el
  refine ⟨fun ha hm => ?_, fun sg hsg => ?_⟩
  · obtain ⟨e, f, sg, hnear, hplain, hsign, hfl⟩ := flAdd_inexact_of_plain (sub := sub) h.digits hdrop hbound ha hm
    refine ⟨e, f, sg, hnear, hplain, hsign, ?_⟩
    simpa only [decide_eq_true_eq] using h.stored_plain ha hm hfl
  · obtain ⟨e, f, hnear, hfl⟩ := flAdd_inexact_of_period (sg := sg) h.digits hdrop hbound
    exact ⟨e, f, hnear, h.stored_period hsg (by rw [signPlan_of_periodSign hsg, hfl])⟩

/-- The zero sum of signed numbers (R150). -/
theorem StoresSum.stored_zero (h : StoresSum n a m sa sm sub i s put) {eh p q : Nat} (ha : alignedTo eh a.e a.f p)
    (hm : alignedTo eh m.e m.f q) (heh : eh = a.e ∨ eh = m.e) (hpa : plain sa = true) (hpm : plain sm = true)
    (h0 : sumValue sa sm sub p q = 0) :
    ∃ sg, plain sg = true ∧
      resultStored i s (put sg 0) (eh - n) ((if n = 20 ∨ a.e = m.e then [40] else []) ++ rangeFlags (eh - n)) := by
  have hex := flExact_of_alignedTo ha hm heh h.significands.1 h.significands.2
  refine ⟨_, plain_zeroSign sa (usedSign sub sm), ?_⟩
  simpa only [decide_eq_true_eq] using h.stored_plain hpa hpm (flAdd_zero_of_plain ha hm hex hpa hpm h0)

/-- The zero sum of magnitudes under a period (U9). -/
theorem StoresSum.stored_zero_period (h : StoresSum n a m sa sm sub i s put) {sg : Chr} (hfa : a.f = 0) (hfm : m.f = 0)
    (hsg : periodSign sa sm sub = some sg) : ∃ x : List Chr, x.length = 2 ∧ exec i s = .next (put sg 0 x).next := by
  obtain ⟨ha, hm⟩ := ordinary_of_periodSign hsg
  obtain ⟨e, hfl⟩ := flAdd_zero_of_period (sg := sg) (n := n) hfa hfm
  refine ⟨_, slice_length (drawn s.tick 0) 11 10 (by decide) (by decide), ?_⟩
  have hexec := h.exec_eq _ ha hm (by rw [signPlan_of_periodSign hsg, hfl])
  rwa [signPlan_of_periodSign hsg] at hexec

end

/-! ### The statements -/

/-- Settles O25: single precision, both clauses from the stored sum. -/
theorem floatAdd : Obligations.FloatAdd := by
  intro o s ea eh d i sm sub hea hi hthere
  have h := storesSum_single hea hi hthere
  exact ⟨fun p q e f r sg hp hq heh hsum hnorm he => h.exec_exact hp hq heh hsum hnorm he,
    fun el hdrop => h.stored_inexact hdrop⟩

/-- Settles O26: double precision likewise. -/
theorem floatAddDouble : Obligations.FloatAddDouble := by
  rintro o s ea eh A M i sub hea hi hsame hpair rfl rfl
  have hthere : operandsThere i s ea = true := by
    simp only [List.mem_cons, List.not_mem_nil, or_false, Prod.mk.injEq] at hi
    rcases hi with ⟨rfl, rfl⟩ | ⟨rfl, rfl⟩ <;> simp [operandsThere, hsame, hpair]
  have h := storesSum_double hea hi hthere
  exact ⟨fun p q e f r sg hp hq heh hsum hnorm he => h.exec_exact hp hq heh hsum hnorm he,
    fun el hdrop => h.stored_inexact hdrop⟩

/-- Settles O27: the two zero sums, each in single and in double precision. -/
theorem floatZeroResult : Obligations.FloatZeroResult := by
  intro o s ea eh p q i hea hthere
  refine ⟨fun d sm sub sg hi hfa hfm hsg => ?_, fun sub sg hi hfa hfm hsg => ?_,
    fun d sm sub hi ha hm heh hp hq h0 => ?_, fun sub hi ha hm heh hp hq h0 => ?_⟩
  · exact (storesSum_single hea hi hthere).stored_zero_period hfa hfm hsg
  · exact (storesSum_double hea hi hthere).stored_zero_period hfa hfm hsg
  · obtain ⟨sg, hsg, hstored⟩ := (storesSum_single hea hi hthere).stored_zero hp hq heh ha hm h0
    exact ⟨sg, hsg, by simpa [flOperand] using hstored⟩
  · obtain ⟨sg, hsg, hstored⟩ := (storesSum_double hea hi hthere).stored_zero hp hq heh ha hm h0
    exact ⟨sg, hsg, hstored⟩

/-- Settles O29: the exact sum again, with its exponent out of range. -/
theorem floatExponentRange : Obligations.FloatExponentRange := by
  intro o s ea eh p q f r e i sg hea hthere heh _
  exact ⟨fun d sm sub hi hp hq hsum hnorm => (storesSum_single hea hi hthere).stored_exact hp hq heh hsum hnorm,
    fun sub hi hp hq hsum hnorm => (storesSum_double hea hi hthere).stored_exact hp hq heh hsum hnorm⟩

/-! ### Absolute zero as an addend (R151) -/

/-- A word of digits is the fixed-point word of its magnitude. -/
theorem fxWord_fxmag {w : Word} (h : (slice w 11 1).all isNum = true) : fxWord w.c12 (fxmag w) = w := by
  rw [fxWord, fxmag, dig_num h (slice_length w 11 1 (by decide) (by decide)), wordOf_slice]

/-- A word of digits is the floating-point word of its exponent and significand. -/
theorem floatWord_flexp_flsig {w : Word} (h : (slice w 11 1).all isNum = true) :
    floatWord w.c12 (flexp w) (flsig w) = w := by
  have hparts : slice w 11 1 = slice w 11 10 ++ slice w 9 1 := rfl
  have hall := h
  rw [hparts, List.all_append, Bool.and_eq_true] at hall
  rw [floatWord, flexp, flsig, dig_num hall.1 (slice_length w 11 10 (by decide) (by decide)),
    dig_num hall.2 (slice_length w 9 1 (by decide) (by decide)), ← hparts, wordOf_slice]

theorem fxmag_absoluteZero : fxmag absoluteZero = 0 := by decide
theorem flexp_absoluteZero : flexp absoluteZero = 0 := by decide
theorem flsig_absoluteZero : flsig absoluteZero = 0 := by decide

/-- Settles O28: absolute zero is a period over zeros, so the sum is (A) itself by O21 and O25. -/
theorem absoluteZeroAddend : Obligations.AbsoluteZeroAddend := by
  intro o s ea hea hread hreg hzero hplain hnum
  have hsign : (s.load ea).c12 = .period := by rw [hzero]; rfl
  refine ⟨?_, fun hnorm => ?_⟩
  · have hmag : fxmag (s.reg o.a) + fxmag (s.load ea) = fxmag (s.reg o.a) := by rw [hzero, fxmag_absoluteZero, add_zero]
    obtain ⟨hperiod, -⟩ := fixedAddPeriod o s ea hea hread hreg (by rw [hmag]; exact fxmag_lt _)
    have hadd := (hperiod (ordinary_of_plain hplain) hsign).1
    rwa [hmag, fxWord_fxmag hnum, setReg_reg] at hadd
  · have hthere : operandsThere (.a o) s ea = true := by simp [operandsThere, hread, hreg]
    have hmember : (Instr.a o, o.a, Chr.period, false) ∈ singleSums o (s.load ea) := by simp [singleSums, hsign]
    have hadd := (floatAdd o s ea (flexp (s.reg o.a)) o.a (.a o) .period false hea hmember hthere).1 (flsig (s.reg o.a)) 0
      (flexp (s.reg o.a)) (flsig (s.reg o.a)) (flsig (s.reg o.a)) (s.reg o.a).c12 ⟨le_rfl, by simp⟩
      ⟨by simp [hzero, flexp_absoluteZero], by simp [hzero, flsig_absoluteZero]⟩ (.inl rfl)
      (.inr ⟨by simp [periodSign, ordinary_of_plain hplain], rfl⟩)
      (.inr ⟨flsig_lt _, 0, by simp, by simp, of_decide_eq_true hnorm, flsig_lt _⟩) (Nat.le_of_lt_succ (flexp_lt _))
    rwa [floatWord_flexp_flsig hnum, setReg_reg] at hadd

end Sys2Proof.Machine
end

section
/-! Products and quotients (41_arithmetic_mul_div.md), what all of them share: the signs (R201, R202) and the rounding (R204);
and the fixed-point ones (R203, R205, R207, R220, R221, R226, R230, R231, R235) with the divide overflow (D24). -/

namespace Sys2Proof.Machine
open Sys2Proof

/-! ### The signs (R201) -/

theorem cls_eq_p (c : Chr) : cls c = .p ↔ c = .period := by
  cases c with
  | d n => by_cases hn : n = 0 <;> simp [cls, hn]
  | minus => decide
  | period => decide
  | ignore => decide
  | other k => simp [cls]

theorem mdPeriod_iff {sa sm : Chr} : mdPeriod sa sm = true ↔ sa = .period ∨ sm = .period := by
  rw [mdPeriod, decide_eq_true_iff, cls_eq_p, cls_eq_p]

theorem mdPeriod_of_plain {sa sm : Chr} (ha : plain sa = true) (hm : plain sm = true) : mdPeriod sa sm = false := by
  simp [mdPeriod, cls_ne_p_of_plain ha, cls_ne_p_of_plain hm]

theorem mdAnomaly_of_ordinary {sa sm : Chr} (ha : ordinary sa = true) (hm : ordinary sm = true) :
    mdAnomaly sa sm = false := by
  rw [mdAnomaly_eq, ha, hm]
  rfl

theorem productSign_mdSign (sa sm : Chr) (mag : Nat) : productSign sa sm mag (mdSign sa sm mag) := by
  unfold productSign mdSign
  simp only [mdPeriod_iff]
  split_ifs
  · rfl
  · rfl
  · exact plain_zeroSign sa sm
  · rfl

theorem mdSign_of_period {sa sm : Chr} (h : sa = .period ∨ sm = .period) (mag : Nat) : mdSign sa sm mag = .period :=
  if_pos (mdPeriod_iff.2 h)

/-- The sign of a product or quotient of signed numbers that is not zero. -/
theorem mdSign_of_plain {sa sm : Chr} (ha : plain sa = true) (hm : plain sm = true) {mag : Nat} (h : mag ≠ 0) :
    mdSign sa sm mag = if sa = sm then .d 0 else .minus := by
  simp only [mdSign, mdPeriod_of_plain ha hm, h, if_false, Bool.false_eq_true]

/-! ### The rounding (R204) -/

theorem roundDiv_of_mod_eq_zero {num den : Nat} (h : num % den = 0) : roundDiv num den = num / den := by
  rw [roundDiv, if_pos h, Nat.add_zero]

/-- A fraction that is not whole is rounded down or up (D20). -/
theorem roundDiv_cases (num den : Nat) :
    roundDiv num den = num / den ∨ (num % den ≠ 0 ∧ roundDiv num den = num / den + 1) := by
  by_cases h : num % den = 0
  · exact .inl (roundDiv_of_mod_eq_zero h)
  · rw [roundDiv, if_neg h]
    split
    · exact .inr ⟨h, rfl⟩
    · exact .inl rfl

/-! ### The quotient (R207, D24) -/

section
variable {p q n : Nat}

theorem fxDiv_of_lt {Q R : Nat} (hlt : p < q) (h : p * 10 ^ n = Q * q + R) (hR : R < q) : fxDiv p q n = some (Q, R) := by
  have hdiv : p * 10 ^ n / q = Q ∧ p * 10 ^ n % q = R :=
    (Nat.div_mod_unique (by omega)).2 ⟨by rw [h, Nat.mul_comm, Nat.add_comm], hR⟩
  rw [fxDiv, if_pos hlt, hdiv.1, hdiv.2]

theorem fxDiv_of_le (h : q ≤ p) : fxDiv p q n = none := if_neg (Nat.not_lt.2 h)

end

/-! ### The words under ordinary signs -/

section
variable {tick : Nat}

theorem fxMulRounded_of_ordinary {a m : Word} (ha : ordinary a.c12 = true) (hm : ordinary m.c12 = true) :
    fxMulRounded a m tick = ⟨fxWord (mdSign a.c12 m.c12 (roundDiv (fxmag a * fxmag m) (10 ^ 11)))
      (roundDiv (fxmag a * fxmag m) (10 ^ 11)), []⟩ := by
  simp [fxMulRounded, mdAnomaly_of_ordinary ha hm]

theorem fxMulExact_of_ordinary {a m : Word} (ha : ordinary a.c12 = true) (hm : ordinary m.c12 = true) {P : Nat}
    (hP : P = fxmag a * fxmag m) :
    fxMulExact a m tick =
      ⟨fxWord (mdSign a.c12 m.c12 P) (P / 10 ^ 11), fxWord (mdSign a.c12 m.c12 P) (P % 10 ^ 11), []⟩ := by
  simp [fxMulExact, mdAnomaly_of_ordinary ha hm, fxPair, hP]

theorem fxMulPair_of_ordinary {a a' m m' : Word} (ha : ordinary a'.c12 = true) (hm : ordinary m'.c12 = true) {R : Nat}
    (hR : R = dfxmag a a' * dfxmag m m' / 10 ^ 22) :
    fxMulPair (a, a') (m, m') tick =
      ⟨fxWord (mdSign a'.c12 m'.c12 R) (R / 10 ^ 11), fxWord (mdSign a'.c12 m'.c12 R) (R % 10 ^ 11), []⟩ := by
  simp [fxMulPair, mdAnomaly_of_ordinary ha hm, fxPair, hR]

section
variable {a m : Word} {Q R : Nat} (ha : ordinary a.c12 = true) (hm : ordinary m.c12 = true)
include ha hm

theorem fxDiv1_of_some (h : fxDiv (fxmag a) (fxmag m) 11 = some (Q, R)) :
    fxDiv1 a m tick = ⟨fxWord (mdSign a.c12 m.c12 Q) Q, []⟩ := by
  simp [fxDiv1, mdAnomaly_of_ordinary ha hm, h]

theorem fxDiv1_of_none (h : fxDiv (fxmag a) (fxmag m) 11 = none) : fxDiv1 a m tick = ⟨drawn tick 0, [ffFixedOver]⟩ := by
  simp [fxDiv1, mdAnomaly_of_ordinary ha hm, h]

theorem fxDivRem_of_some (h : fxDiv (fxmag a) (fxmag m) 11 = some (Q, R)) :
    fxDivRem a m tick = ⟨fxWord (mdSign a.c12 m.c12 Q) Q, fxWord a.c12 R, []⟩ := by
  simp [fxDivRem, mdAnomaly_of_ordinary ha hm, h]

theorem fxDivRem_of_none (h : fxDiv (fxmag a) (fxmag m) 11 = none) :
    fxDivRem a m tick = ⟨drawn tick 0, drawn tick 1, [ffFixedOver]⟩ := by
  simp [fxDivRem, mdAnomaly_of_ordinary ha hm, h]

end

section
variable (a m : Word × Word) {Q R : Nat} (ha : ordinary a.1.c12 = true) (hm : ordinary m.1.c12 = true)
include ha hm

theorem fxDivPair_of_some (h : fxDiv (dfxmag a.1 a.2) (dfxmag m.1 m.2) 22 = some (Q, R)) :
    fxDivPair a m tick =
      ⟨fxWord (mdSign a.1.c12 m.1.c12 Q) (Q / 10 ^ 11), fxWord (mdSign a.1.c12 m.1.c12 Q) (Q % 10 ^ 11), []⟩ := by
  simp [fxDivPair, mdAnomaly_of_ordinary ha hm, h, fxPair]

theorem fxDivPair_of_none (h : fxDiv (dfxmag a.1 a.2) (dfxmag m.1 m.2) 22 = none) :
    fxDivPair a m tick = ⟨drawn tick 0, drawn tick 1, [ffFixedOver]⟩ := by
  simp [fxDivPair, mdAnomaly_of_ordinary ha hm, h]

end

end

/-! ### What the instructions store -/

/-- An instruction whose operands are there answers its one state. -/
theorem Answers.eq_next {out : Out} {s : State} {o : Fields} {there : Nat → Bool} {u : Nat → State} {ea : Nat}
    (hans : Answers out s o there u) (hea : effM s o = .ok ea) (hthere : there ea = true) : out = .next (u ea) :=
  (hans _).2 ⟨ea, hea, hthere, rfl⟩

theorem hasPair_of_hasReg {s : State} {r : Nat} (h : s.hasReg r = true) (h' : s.hasReg (r + 1) = true) :
    hasPair s r = true := Bool.and_eq_true_iff.2 ⟨h, h'⟩

theorem raisedAs_deposit1 (s : State) (r : Nat) (w : Word) {k : Nat} (hk : k < 100) :
    raisedAs s (s.deposit1 r ⟨w, [k]⟩) k [] ∧ inSequence s (s.deposit1 r ⟨w, [k]⟩) :=
  (onlyRegisters_setReg s r w).raisedAs (by simpa using hk)

theorem raisedAs_deposit2 (s : State) (r : Nat) (h l : Word) {k : Nat} (hk : k < 100) :
    raisedAs s (s.deposit2 r ⟨h, l, [k]⟩) k [] ∧ inSequence s (s.deposit2 r ⟨h, l, [k]⟩) :=
  (onlyRegisters_setPair s r h l).raisedAs (by simpa using hk)

/-! ### The statements -/

/-- Settles O31: the three products, 20 within the two values of the rounding. -/
theorem fixedMultiply : Obligations.FixedMultiply := by
  intro o s ea hea
  refine ⟨fun hread hreg ha hm P hP => ⟨?_, fun hreg' => ?_⟩, fun hsame hpair ha hm R hR => ?_⟩
  · refine ⟨_, _, ?_, productSign_mdSign _ _ (roundDiv P (10 ^ 11)), ?_⟩
    · exact roundDiv_cases P (10 ^ 11)
    · rw [← deposit1_quiet, hP, ← fxMulRounded_of_ordinary ha hm]
      exact (arithA_answers o s _).eq_next hea (Bool.and_eq_true_iff.2 ⟨hread, hreg⟩)
  · refine ⟨_, productSign_mdSign _ _ P, ?_⟩
    rw [← deposit2_quiet, ← fxMulExact_of_ordinary ha hm hP]
    exact (arithExt_answers o s _).eq_next hea
      (Bool.and_eq_true_iff.2 ⟨hread, hasPair_of_hasReg hreg hreg'⟩)
  · refine ⟨_, productSign_mdSign _ _ R, ?_⟩
    rw [← deposit2_quiet, ← fxMulPair_of_ordinary ha hm hR]
    exact (arithPair_answers o s _).eq_next hea (Bool.and_eq_true_iff.2 ⟨hsame, hpair⟩)

/-- Settles O35: below the divisor the quotient and the remainder are those of the division. -/
theorem fixedDivide : Obligations.FixedDivide := by
  intro o s ea hea ha hm
  refine ⟨fun hread hreg hlt Q R hdiv hR => ⟨?_, fun hreg' => ?_⟩, fun hsame hpair Q R hlt hdiv hR => ?_⟩
  · refine ⟨_, productSign_mdSign _ _ Q, ?_⟩
    rw [← deposit1_quiet, ← fxDiv1_of_some ha hm (fxDiv_of_lt hlt hdiv hR)]
    exact (arithA_answers o s _).eq_next hea (Bool.and_eq_true_iff.2 ⟨hread, hreg⟩)
  · refine ⟨_, productSign_mdSign _ _ Q, ?_⟩
    rw [← deposit2_quiet, ← fxDivRem_of_some ha hm (fxDiv_of_lt hlt hdiv hR)]
    exact (arithExt_answers o s _).eq_next hea
      (Bool.and_eq_true_iff.2 ⟨hread, hasPair_of_hasReg hreg hreg'⟩)
  · refine ⟨_, productSign_mdSign _ _ Q, ?_⟩
    rw [← deposit2_quiet, ← fxDivPair_of_some (s.reg o.a, s.reg (o.a + 1)) (s.load ea, s.load (ea + 1)) ha hm
      (fxDiv_of_lt hlt hdiv hR)]
    exact (arithPair_answers o s _).eq_next hea (Bool.and_eq_true_iff.2 ⟨hsame, hpair⟩)

end Sys2Proof.Machine
end

section
/-! The floating-point multiply and divide cores (41_arithmetic_mul_div.md R204, R206, R208; 92_eei_decisions.md D47) against
the words of the statements: both keep or round one fraction, whose whole part is the unrounded significand. -/

namespace Sys2Proof.Machine
open Sys2Proof

/-! ### A fraction kept or rounded (R204) -/

theorem carryOut_of_lt {k f : Nat} (e : Int) (h : f < 10 ^ k) : carryOut k e f = (e, f) := if_neg h.ne

/-- A rounded fraction whose whole part has at most nine digits; a whole one stays as it is. -/
theorem carryOut_keep_rounded {num den : Nat} (e : Int) (h : num / den < 10 ^ 9) :
    ∃ e' f', carryOut 9 e (keep true num den) = (e', f') ∧ roundedFrom e (num / den) e' f' ∧
      (num % den = 0 → e' = e ∧ f' = num / den) := by
  have hkeep : keep true num den = roundDiv num den := rfl
  rw [hkeep]
  rcases roundDiv_cases num den with hdown | ⟨hmod, hup⟩
  · rw [hdown, carryOut_of_lt e h]
    exact ⟨_, _, rfl, .inl ⟨rfl, rfl⟩, fun _ => ⟨rfl, rfl⟩⟩
  · rw [hup]
    by_cases hcarry : num / den + 1 = 10 ^ 9
    · exact ⟨_, _, if_pos hcarry, .inr (.inr ⟨hcarry, rfl, rfl⟩), fun h0 => absurd h0 hmod⟩
    · exact ⟨_, _, if_neg hcarry, .inr (.inl ⟨by omega, rfl, rfl⟩), fun h0 => absurd h0 hmod⟩

section
variable {e e' : Int} {f f' : Nat}

theorem roundedFrom.ne_zero (h : roundedFrom e f e' f') (hf : f ≠ 0) : f' ≠ 0 := by
  rcases h with ⟨-, rfl⟩ | ⟨-, -, rfl⟩ | ⟨-, -, rfl⟩
  · exact hf
  · exact Nat.succ_ne_zero f
  · decide

/-- The rounding of a significand does not depend on its exponent. -/
theorem roundedFrom.shift (h : roundedFrom e f e' f') (c : Int) : ∃ c', roundedFrom c f c' f' := by
  rcases h with ⟨-, hf⟩ | ⟨hlt, -, hf⟩ | ⟨hcarry, -, hf⟩
  · exact ⟨c, .inl ⟨rfl, hf⟩⟩
  · exact ⟨c, .inr (.inl ⟨hlt, rfl, hf⟩)⟩
  · exact ⟨c + 1, .inr (.inr ⟨hcarry, rfl, hf⟩)⟩

end

/-! ### The product (R206) -/

/-- The product of two `n`-digit significands, shifted left one place where its leading digit is zero. -/
def shiftedProduct (n fa fm : Nat) : Nat := if 10 ^ (2 * n - 1) ≤ fa * fm then fa * fm else fa * fm * 10

section
variable {n k fa fm f : Nat}

theorem productSignificand_iff : productSignificand n k fa fm f ↔ f = shiftedProduct n fa fm * 10 ^ k / 10 ^ (2 * n) := by
  unfold productSignificand shiftedProduct
  split <;> rfl

/-- Shifted, the product of two normalized significands has all its `2n` digits. -/
theorem shiftedProduct_bounds (hn : 0 < n) (ha : normalized n fa = true) (hm : normalized n fm = true) (hfa : fa < 10 ^ n)
    (hfm : fm < 10 ^ n) : 10 ^ (2 * n - 1) ≤ shiftedProduct n fa fm ∧ shiftedProduct n fa fm < 10 ^ (2 * n) := by
  have hlow : 10 ^ (2 * n - 2) ≤ fa * fm := by
    have hmul := Nat.mul_le_mul (of_decide_eq_true ha) (of_decide_eq_true hm)
    rwa [← pow_add, show n - 1 + (n - 1) = 2 * n - 2 by omega] at hmul
  have hhigh : fa * fm < 10 ^ (2 * n) := by
    have hmul := Nat.mul_lt_mul'' hfa hfm
    rwa [← pow_add, ← two_mul] at hmul
  have hpow1 : 10 ^ (2 * n - 1) = 10 ^ (2 * n - 2) * 10 := by rw [← pow_succ]; congr 1; omega
  have hpow : 10 ^ (2 * n) = 10 ^ (2 * n - 1) * 10 := by rw [← pow_succ]; congr 1; omega
  unfold shiftedProduct
  split <;> omega

/-- The unrounded significand is the whole part of the fraction the core keeps. -/
theorem productSignificand.eq_div (h : productSignificand n k fa fm f) :
    f = shiftedProduct n fa fm * 10 ^ (k - 2 * n) / 10 ^ (2 * n - k) := by
  have hk : 10 ^ k = 10 ^ (k - 2 * n) * 10 ^ min k (2 * n) := by rw [← pow_add]; congr 1; omega
  have hn : 10 ^ (2 * n) = 10 ^ (2 * n - k) * 10 ^ min k (2 * n) := by rw [← pow_add]; congr 1; omega
  rw [productSignificand_iff.1 h, hk, hn, ← Nat.mul_assoc, Nat.mul_div_mul_right _ _ (by positivity)]

/-- The significand of a product of normalized numbers has `k` digits and is not zero. -/
theorem productSignificand.bounds (h : productSignificand n k fa fm f) (hn : 0 < n) (hk : 0 < k)
    (ha : normalized n fa = true) (hm : normalized n fm = true) (hfa : fa < 10 ^ n) (hfm : fm < 10 ^ n) :
    f ≠ 0 ∧ f < 10 ^ k := by
  obtain ⟨hlow, hhigh⟩ := shiftedProduct_bounds hn ha hm hfa hfm
  rw [productSignificand_iff.1 h]
  refine ⟨(Nat.div_pos ?_ (by positivity)).ne', (Nat.div_lt_iff_lt_mul (by positivity)).2 ?_⟩
  · calc 10 ^ (2 * n) = 10 ^ (2 * n - 1) * 10 := by rw [← pow_succ]; congr 1; omega
      _ ≤ shiftedProduct n fa fm * 10 ^ k := Nat.mul_le_mul hlow (Nat.le_self_pow hk.ne' 10)
  · rw [Nat.mul_comm]
    exact Nat.mul_lt_mul_of_pos_left hhigh (by positivity)

/-- Where nine digits are the whole product, shifted or not, the fraction is whole. -/
theorem shiftedProduct_mod_eq_zero (h : productSignificand 9 9 fa fm f)
    (hex : f * 10 ^ 9 = fa * fm ∨ f * 10 ^ 8 = fa * fm) : shiftedProduct 9 fa fm % 10 ^ 9 = 0 := by
  have hdiv : f = shiftedProduct 9 fa fm / 10 ^ 9 := by simpa using h.eq_div
  by_cases hp : 10 ^ (2 * 9 - 1) ≤ fa * fm
  · rw [shiftedProduct, if_pos hp] at hdiv ⊢
    omega
  · rw [shiftedProduct, if_neg hp] at hdiv ⊢
    omega

/-- Some exponent goes with the significand. -/
theorem productSignificand.exists_productDigits (h : productSignificand n k fa fm f) (ea em : Nat) :
    ∃ e, productDigits n k ea fa em fm e f := by
  by_cases hp : 10 ^ (2 * n - 1) ≤ fa * fm
  · exact ⟨(ea : Int) + em - 50, h, by rw [if_pos hp]; omega⟩
  · exact ⟨(ea : Int) + em - 51, h, by rw [if_neg hp]; omega⟩

end

section
variable {n k ea fa em fm f : Nat} {e : Int}

/-- The core keeps one fraction, at the exponent of the statements. -/
theorem flMulCore_of_productDigits (h : productDigits n k ea fa em fm e f) (rounded : Bool) :
    flMulCore ⟨ea, fa⟩ ⟨em, fm⟩ n k rounded =
      carryOut k e (keep rounded (shiftedProduct n fa fm * 10 ^ (k - 2 * n)) (10 ^ (2 * n - k))) := by
  obtain ⟨-, hexp⟩ := h
  unfold flMulCore shiftedProduct
  dsimp only
  split at hexp
  · next hp =>
    rw [if_pos hp, if_pos hp, Nat.zero_add, show (ea : Int) + em - 50 - (0 : Nat) = e by omega]
  · next hp =>
    rw [if_neg hp, if_neg hp, pow_add, pow_one, ← Nat.mul_assoc, show (ea : Int) + em - 50 - (1 : Nat) = e by omega]

theorem flMul_of_normalized (sa sm : Chr) (ha : normalized n fa = true) (hm : normalized n fm = true) (rounded : Bool) :
    flMul sa sm ⟨ea, fa⟩ ⟨em, fm⟩ n k rounded = flMulCore ⟨ea, fa⟩ ⟨em, fm⟩ n k rounded := by
  simp [flMul, ha, hm]

/-- The product of normalized numbers, unrounded. -/
theorem flMul_of_productDigits (sa sm : Chr) (hn : 0 < n) (hk : 0 < k) (ha : normalized n fa = true)
    (hm : normalized n fm = true) (hfa : fa < 10 ^ n) (hfm : fm < 10 ^ n) (h : productDigits n k ea fa em fm e f) :
    flMul sa sm ⟨ea, fa⟩ ⟨em, fm⟩ n k false = (e, f) ∧ f ≠ 0 := by
  obtain ⟨hne, hlt⟩ := h.1.bounds hn hk ha hm hfa hfm
  have hkeep : keep false (shiftedProduct n fa fm * 10 ^ (k - 2 * n)) (10 ^ (2 * n - k)) = f := h.1.eq_div.symm
  rw [flMul_of_normalized sa sm ha hm, flMulCore_of_productDigits h, hkeep, carryOut_of_lt e hlt]
  exact ⟨rfl, hne⟩

/-- The single-precision product of normalized numbers, rounded. -/
theorem flMul_rounded_of_productDigits (sa sm : Chr) (ha : normalized 9 fa = true) (hm : normalized 9 fm = true)
    (hfa : fa < 10 ^ 9) (hfm : fm < 10 ^ 9) (h : productDigits 9 9 ea fa em fm e f) :
    ∃ e' f', flMul sa sm ⟨ea, fa⟩ ⟨em, fm⟩ 9 9 true = (e', f') ∧ f' ≠ 0 ∧ roundedFrom e f e' f' ∧
      (f * 10 ^ 9 = fa * fm ∨ f * 10 ^ 8 = fa * fm → e' = e ∧ f' = f) := by
  obtain ⟨hne, hlt⟩ := h.1.bounds (by decide) (by decide) ha hm hfa hfm
  have hdiv : f = shiftedProduct 9 fa fm / 10 ^ 9 := by simpa using h.1.eq_div
  obtain ⟨e', f', hcore, hround, hexact⟩ := carryOut_keep_rounded e (hdiv ▸ hlt)
  rw [← hdiv] at hround hexact
  refine ⟨e', f', ?_, hround.ne_zero hne, hround, fun hex => hexact (shiftedProduct_mod_eq_zero h.1 hex)⟩
  rw [flMul_of_normalized sa sm ha hm, flMulCore_of_productDigits h, ← hcore]
  simp

end

/-- A zero significand is kept, rounded or not. -/
theorem carryOut_keep_zero (k : Nat) (e : Int) (rounded : Bool) (den : Nat) : carryOut k e (keep rounded 0 den) = (e, 0) := by
  have hkeep : keep rounded 0 den = 0 := by cases rounded <;> simp [keep, roundDiv]
  rw [hkeep, carryOut_of_lt e (by positivity)]

/-- A factor that is absolute zero makes the significand zero (R206). -/
theorem flMul_of_isAbsoluteZero {sa sm : Chr} {a m : FlOperand}
    (h : isAbsoluteZero sa a = true ∨ isAbsoluteZero sm m = true) (n k : Nat) (rounded : Bool) : ∃ e, flMul sa sm a m n k rounded = (e, 0) := by
  have hzero : a.f * m.f = 0 := by
    rcases h with h | h
    · rw [(of_decide_eq_true h).2.2, Nat.zero_mul]
    · rw [(of_decide_eq_true h).2.2, Nat.mul_zero]
  have hcore : flMul sa sm a m n k rounded = flMulCore a m n k rounded := by
    rcases h with h | h <;> simp [flMul, h]
  rw [hcore, flMulCore, hzero, Nat.zero_mul, carryOut_keep_zero]
  exact ⟨_, rfl⟩

/-! ### The quotient (R208) -/

theorem pow_le_mul_ten_of_normalized {n f : Nat} (hn : 0 < n) (h : normalized n f = true) : 10 ^ n ≤ f * 10 := by
  have hmul := Nat.mul_le_mul_right 10 (of_decide_eq_true h)
  rwa [← pow_succ, Nat.sub_add_cancel hn] at hmul

section
variable {n nd k ea fa em fm f : Nat} {e : Int}

/-- The digits kept of a quotient: one less where the dividend's significand is not below the divisor's. -/
def quotientPlaces (n nd k fa fm : Nat) : Nat := if fa * 10 ^ nd < fm * 10 ^ n then k else k - 1

/-- The unrounded significand is the whole part of the fraction the core keeps. -/
theorem quotientDigits.eq_div (h : quotientDigits n nd k ea fa em fm e f) :
    f = fa * 10 ^ nd * 10 ^ quotientPlaces n nd k fa fm / (fm * 10 ^ n) := by
  unfold quotientPlaces
  rcases h with ⟨hlt, -, rfl⟩ | ⟨hle, -, rfl⟩
  · rw [if_pos hlt]
  · rw [if_neg (Nat.not_lt.2 hle)]

/-- The significand of a quotient of normalized numbers has `k` digits and is not zero. -/
theorem quotientDigits.bounds (h : quotientDigits n nd k ea fa em fm e f) (hn : 0 < n) (hnd : 0 < nd) (hk : 0 < k)
    (ha : normalized n fa = true) (hm : normalized nd fm = true) (hfa : fa < 10 ^ n) (hfm : fm < 10 ^ nd) :
    f ≠ 0 ∧ f < 10 ^ k := by
  have halow := pow_le_mul_ten_of_normalized hn ha
  have hmlow := pow_le_mul_ten_of_normalized hnd hm
  have hfmpos : 0 < fm := lt_of_lt_of_le (by positivity) (of_decide_eq_true hm)
  have hpos : 0 < fm * 10 ^ n := by positivity
  rcases h with ⟨hlt, -, rfl⟩ | ⟨hle, -, rfl⟩
  · refine ⟨(Nat.div_pos ?_ hpos).ne', (Nat.div_lt_iff_lt_mul hpos).2 ?_⟩
    · calc fm * 10 ^ n ≤ 10 ^ nd * (fa * 10) := Nat.mul_le_mul hfm.le halow
        _ = fa * 10 ^ nd * 10 := by ring
        _ ≤ fa * 10 ^ nd * 10 ^ k := Nat.mul_le_mul_left _ (Nat.le_self_pow hk.ne' 10)
    · rw [Nat.mul_comm]
      exact Nat.mul_lt_mul_of_pos_left hlt (by positivity)
  · refine ⟨(Nat.div_pos (hle.trans (Nat.le_mul_of_pos_right _ (by positivity))) hpos).ne',
      (Nat.div_lt_iff_lt_mul hpos).2 ?_⟩
    calc fa * 10 ^ nd * 10 ^ (k - 1) < 10 ^ n * (fm * 10) * 10 ^ (k - 1) :=
          Nat.mul_lt_mul_of_pos_right (Nat.mul_lt_mul_of_lt_of_le hfa hmlow (by positivity)) (by positivity)
      _ = 10 ^ (k - 1 + 1) * (fm * 10 ^ n) := by rw [pow_succ]; ring
      _ = 10 ^ k * (fm * 10 ^ n) := by rw [Nat.sub_add_cancel hk]

/-- Where nine digits are the whole quotient, the fraction is whole. -/
theorem quotientDigits.mod_eq_zero (h : quotientDigits 9 9 9 ea fa em fm e f) (ha : 0 < fa)
    (hex : f * fm = fa * 10 ^ 9 ∨ f * fm = fa * 10 ^ 8) :
    fa * 10 ^ 9 * 10 ^ quotientPlaces 9 9 9 fa fm % (fm * 10 ^ 9) = 0 := by
  have hle : f * fm * 10 ^ 9 ≤ fa * 10 ^ 9 * 10 ^ quotientPlaces 9 9 9 fa fm := by
    have hmul := Nat.div_mul_le_self (fa * 10 ^ 9 * 10 ^ quotientPlaces 9 9 9 fa fm) (fm * 10 ^ 9)
    rwa [← h.eq_div, ← Nat.mul_assoc] at hmul
  have hplaces : quotientPlaces 9 9 9 fa fm = 9 ∨ quotientPlaces 9 9 9 fa fm = 8 := by
    unfold quotientPlaces
    split
    · exact .inl rfl
    · exact .inr rfl
  refine Nat.mod_eq_zero_of_dvd ?_
  rcases hplaces with hp | hp
  · rw [hp]
    rcases hex with hex | hex
    · exact ⟨f, by rw [← hex]; ring⟩
    · exact ⟨f * 10, by rw [show fa * 10 ^ 9 * 10 ^ 9 = fa * 10 ^ 8 * 10 ^ 10 by ring, ← hex]; ring⟩
  · rw [hp] at hle ⊢
    rcases hex with hex | hex
    · rw [hex] at hle
      omega
    · exact ⟨f, by rw [show fa * 10 ^ 9 * 10 ^ 8 = fa * 10 ^ 8 * 10 ^ 9 by ring, ← hex]; ring⟩

end

section
variable {n nd k ea fa em fm f : Nat} {e : Int}

/-- The core keeps one fraction, at the exponent of the statements. -/
theorem flDivCore_of_quotientDigits (h : quotientDigits n nd k ea fa em fm e f) (rounded : Bool) :
    flDivCore ⟨ea, fa⟩ ⟨em, fm⟩ n nd k rounded =
      carryOut k e (keep rounded (fa * 10 ^ nd * 10 ^ quotientPlaces n nd k fa fm) (fm * 10 ^ n)) := by
  unfold flDivCore quotientPlaces
  dsimp only
  rcases h with ⟨hlt, hexp, -⟩ | ⟨hle, hexp, -⟩
  · rw [if_pos hlt, if_pos hlt, Nat.sub_zero, show (ea : Int) - em + 50 + (0 : Nat) = e by omega]
  · rw [if_neg (Nat.not_lt.2 hle), if_neg (Nat.not_lt.2 hle), show (ea : Int) - em + 50 + (1 : Nat) = e by omega]

theorem flDiv_of_normalized (sa : Chr) (ha : normalized n fa = true) (hm : normalized nd fm = true) (rounded : Bool) :
    flDiv sa ⟨ea, fa⟩ ⟨em, fm⟩ n nd k rounded = some (flDivCore ⟨ea, fa⟩ ⟨em, fm⟩ n nd k rounded) := by
  simp [flDiv, ha, hm]

/-- The quotient of normalized numbers, unrounded. -/
theorem flDiv_of_quotientDigits (sa : Chr) (hn : 0 < n) (hnd : 0 < nd) (hk : 0 < k) (ha : normalized n fa = true)
    (hm : normalized nd fm = true) (hfa : fa < 10 ^ n) (hfm : fm < 10 ^ nd)
    (h : quotientDigits n nd k ea fa em fm e f) : flDiv sa ⟨ea, fa⟩ ⟨em, fm⟩ n nd k false = some (e, f) ∧ f ≠ 0 := by
  obtain ⟨hne, hlt⟩ := h.bounds hn hnd hk ha hm hfa hfm
  have hkeep : keep false (fa * 10 ^ nd * 10 ^ quotientPlaces n nd k fa fm) (fm * 10 ^ n) = f := h.eq_div.symm
  rw [flDiv_of_normalized sa ha hm, flDivCore_of_quotientDigits h, hkeep, carryOut_of_lt e hlt]
  exact ⟨rfl, hne⟩

/-- The single-precision quotient of normalized numbers, rounded. -/
theorem flDiv_rounded_of_quotientDigits (sa : Chr) (ha : normalized 9 fa = true) (hm : normalized 9 fm = true)
    (hfa : fa < 10 ^ 9) (hfm : fm < 10 ^ 9) (h : quotientDigits 9 9 9 ea fa em fm e f) :
    ∃ e' f', flDiv sa ⟨ea, fa⟩ ⟨em, fm⟩ 9 9 9 true = some (e', f') ∧ f' ≠ 0 ∧ roundedFrom e f e' f' ∧
      (f * fm = fa * 10 ^ 9 ∨ f * fm = fa * 10 ^ 8 → e' = e ∧ f' = f) := by
  obtain ⟨hne, hlt⟩ := h.bounds (by decide) (by decide) (by decide) ha hm hfa hfm
  obtain ⟨e', f', hcore, hround, hexact⟩ := carryOut_keep_rounded e (h.eq_div ▸ hlt)
  rw [← h.eq_div] at hround hexact
  have hpos : 0 < fa := lt_of_lt_of_le (by positivity) (of_decide_eq_true ha)
  refine ⟨e', f', ?_, hround.ne_zero hne, hround, fun hex => hexact (h.mod_eq_zero hpos hex)⟩
  rw [flDiv_of_normalized sa ha hm, flDivCore_of_quotientDigits h, hcore]

end

section
variable {sa : Chr} {a m : FlOperand} {nd : Nat}

/-- A dividend that is absolute zero makes the significand zero (R208). -/
theorem flDiv_of_isAbsoluteZero (h : isAbsoluteZero sa a = true) (hm : normalized nd m.f = true) (n k : Nat)
    (rounded : Bool) : ∃ e, flDiv sa a m n nd k rounded = some (e, 0) := by
  have hcore : flDiv sa a m n nd k rounded = some (flDivCore a m n nd k rounded) := by simp [flDiv, h, hm]
  rw [hcore, flDivCore, (of_decide_eq_true h).2.2, Nat.zero_mul, Nat.zero_mul, carryOut_keep_zero]
  exact ⟨_, rfl⟩

/-- No quotient by a divisor that is not normalized (R208). -/
theorem flDiv_of_lt (h : m.f < 10 ^ (nd - 1)) (n k : Nat) (rounded : Bool) : flDiv sa a m n nd k rounded = none := by
  simp [flDiv, normalized, h]

end

end Sys2Proof.Machine
end

section
/-! Floating-point products and quotients (41_arithmetic_mul_div.md R201 to R208, R222 to R227, R232 to R237): the nine forms as
one family of stored results, the statements about them, and the contingencies of division (R207, R208; D24). -/

namespace Sys2Proof.Machine
open Sys2Proof

/-! ### Stored products and quotients -/

/-- Under ordinary signs instruction `i` stores the product or quotient `core`, or raises 41 where there is none: `put sg f x`
is the state with the words of the sign `sg`, the significand `f` and the exponent characters `x`. -/
structure StoresMulDiv (core : Option (Int × Nat)) (sa sm : Chr) (i : Instr) (s : State)
    (put : Chr → Nat → List Chr → State) : Prop where
  onlyRegisters : ∀ sg f x, OnlyRegisters s (put sg f x)
  exec_some : ∀ e f, ordinary sa = true → ordinary sm = true → core = some (e, f) →
    exec i s = .next ((put (mdSign sa sm f) f ((mdExpField (mdPeriod sa sm) e).chars s.tick)).next.raiseContingency
      (expFlags e (mdPeriod sa sm)))
  exec_none : ordinary sa = true → ordinary sm = true → core = none →
    ∃ t, exec i s = .next t ∧ raisedAs s t 41 [] ∧ inSequence s t

/-- The state with a floating-point word in register `d`. -/
def putFloat (s : State) (d : Nat) (sg : Chr) (f : Nat) (x : List Chr) : State := s.setReg d (wordOf sg (x ++ dig 9 f))

/-- The state with a double-precision floating-point number in the pair `r`. -/
def putFloatPair (s : State) (r : Nat) (sg : Chr) (f : Nat) (x : List Chr) : State :=
  s.setPair r (wordOf sg (x ++ dig 9 (f / 10 ^ 11))) (fxWord sg (f % 10 ^ 11))

section
variable {core : Option (Int × Nat)} {sa sm : Chr} {i : Instr} {s : State} {put : Chr → Nat → List Chr → State} {e : Int}
  {f : Nat}

/-- Of signed numbers a result that is not zero has the sign of R201, and its exponent's contingencies are raised (R149). -/
theorem StoresMulDiv.stored (h : StoresMulDiv core sa sm i s put) (ha : plain sa = true) (hm : plain sm = true)
    (hcore : core = some (e, f)) (hf : f ≠ 0) :
    resultStored i s (put (if sa = sm then .d 0 else .minus) f) e (rangeFlags e) := by
  have hexec := h.exec_some e f (ordinary_of_plain ha) (ordinary_of_plain hm) hcore
  rw [mdPeriod_of_plain ha hm, mdSign_of_plain ha hm hf] at hexec
  exact resultStored_of_exec (expField_chars s.tick e) (h.onlyRegisters _ _ _) (lt_of_mem_rangeFlags e) hexec

/-- Under a period the sign is a period, the exponent 00, and nothing is raised (R201 (b), R202). -/
theorem StoresMulDiv.exec_period (h : StoresMulDiv core sa sm i s put) (ha : ordinary sa = true) (hm : ordinary sm = true)
    (hp : sa = .period ∨ sm = .period) (hcore : core = some (e, f)) :
    exec i s = .next (put .period f (dig 2 0)).next := by
  have hexec := h.exec_some e f ha hm hcore
  rwa [mdSign_of_period hp, mdPeriod_iff.2 hp] at hexec

end

/-! ### The nine forms -/

section
variable {o : Fields} {s : State} {ea : Nat}

section
variable {i : Instr} {d : Nat} {core : Option (Int × Nat)} {sa sm : Chr} {v : Result1}

theorem StoresMulDiv.of_deposit1 (hexec : exec i s = .next (s.deposit1 d v))
    (hsome : ∀ c, mdAnomaly sa sm = false → core = some c → v = mdWord sa sm c s.tick)
    (hnone : mdAnomaly sa sm = false → core = none → v = ⟨drawn s.tick 0, [ffDivisor]⟩) :
    StoresMulDiv core sa sm i s (putFloat s d) where
  onlyRegisters _ _ _ := onlyRegisters_setReg _ _ _
  exec_some e f ha hm hcore := by
    rw [hexec, hsome _ (mdAnomaly_of_ordinary ha hm) hcore]
    rfl
  exec_none ha hm hcore := by
    rw [hexec, hnone (mdAnomaly_of_ordinary ha hm) hcore]
    exact ⟨_, rfl, raisedAs_deposit1 s d _ (by decide)⟩

end

section
variable {i : Instr} {r : Nat} {core : Option (Int × Nat)} {sa sm : Chr} {v : Result2}

theorem StoresMulDiv.of_deposit2 (hexec : exec i s = .next (s.deposit2 r v))
    (hsome : ∀ c, mdAnomaly sa sm = false → core = some c → v = mdPair sa sm c s.tick)
    (hnone : mdAnomaly sa sm = false → core = none → v = ⟨drawn s.tick 0, drawn s.tick 1, [ffDivisor]⟩) :
    StoresMulDiv core sa sm i s (putFloatPair s r) where
  onlyRegisters _ _ _ := onlyRegisters_setPair _ _ _ _
  exec_some e f ha hm hcore := by
    rw [hexec, hsome _ (mdAnomaly_of_ordinary ha hm) hcore]
    rfl
  exec_none ha hm hcore := by
    rw [hexec, hnone (mdAnomaly_of_ordinary ha hm) hcore]
    exact ⟨_, rfl, raisedAs_deposit2 s r _ _ (by decide)⟩

end

/-- 22, 23 and 24, each with the register it stores in and whether it rounds. -/
theorem storesMulDiv_product (i : Instr) (d : Nat) (rounded : Bool) (hea : effM s o = .ok ea)
    (hi : (i, d, rounded) ∈ [(Instr.mr o, o.a, true), (.m o, o.a, false), (.mu o, o.a + 1, false)])
    (hthere : operandsThere i s ea = true) :
    StoresMulDiv (some (flMul (s.reg o.a).c12 (s.load ea).c12 (flOperand (s.reg o.a)) (flOperand (s.load ea)) 9 9 rounded))
      (s.reg o.a).c12 (s.load ea).c12 i s (putFloat s d) := by
  refine .of_deposit1 (v := flMul1 rounded (s.reg o.a) (s.load ea) s.tick) ?_ (fun c hno hc => ?_) nofun
  · simp only [List.mem_cons, List.not_mem_nil, or_false, Prod.mk.injEq] at hi
    rcases hi with ⟨rfl, rfl, rfl⟩ | ⟨rfl, rfl, rfl⟩ | ⟨rfl, rfl, rfl⟩
    · exact (arithA_answers o s _).eq_next hea hthere
    · exact (arithA_answers o s _).eq_next hea hthere
    · exact (arithUp_answers o s _).eq_next hea hthere
  · simp [flMul1, hno, Option.some.inj hc]

/-- 25. -/
theorem storesMulDiv_me (hea : effM s o = .ok ea) (hthere : operandsThere (.me o) s ea = true) :
    StoresMulDiv (some (flMul (s.reg o.a).c12 (s.load ea).c12 (flOperand (s.reg o.a)) (flOperand (s.load ea)) 9 20 false))
      (s.reg o.a).c12 (s.load ea).c12 (.me o) s (putFloatPair s o.a) :=
  .of_deposit2 ((arithExt_answers o s _).eq_next hea hthere)
    (fun c hno hc => by simp [flMulExt, hno, Option.some.inj hc]) nofun

/-- 27: the S-digits of the least significant halves (R203 (ii)). -/
theorem storesMulDiv_mm (hea : effM s o = .ok ea) (hthere : operandsThere (.mm o) s ea = true) :
    StoresMulDiv (some (flMul (s.reg (o.a + 1)).c12 (s.load (ea + 1)).c12 (flOperand2 (s.reg o.a, s.reg (o.a + 1)))
        (flOperand2 (s.load ea, s.load (ea + 1))) 20 20 false))
      (s.reg (o.a + 1)).c12 (s.load (ea + 1)).c12 (.mm o) s (putFloatPair s o.a) :=
  .of_deposit2 ((arithPair_answers o s _).eq_next hea hthere)
    (fun c hno hc => by simp [flMulPair, hno, Option.some.inj hc]) nofun

/-- 32 and 34, each with the register it stores in. -/
theorem storesMulDiv_quotient (i : Instr) (d : Nat) (hea : effM s o = .ok ea)
    (hi : (i, d) ∈ [(Instr.dr o, o.a), (.dur o, o.a + 1)])
    (hthere : operandsThere i s ea = true) :
    StoresMulDiv (flDiv (s.reg o.a).c12 (flOperand (s.reg o.a)) (flOperand (s.load ea)) 9 9 9 true)
      (s.reg o.a).c12 (s.load ea).c12 i s (putFloat s d) := by
  refine .of_deposit1 (v := flDiv1 (s.reg o.a) (s.load ea) s.tick) ?_ (fun c hno hc => ?_) (fun hno hc => ?_)
  · simp only [List.mem_cons, List.not_mem_nil, or_false, Prod.mk.injEq] at hi
    rcases hi with ⟨rfl, rfl⟩ | ⟨rfl, rfl⟩
    · exact (arithA_answers o s _).eq_next hea hthere
    · exact (arithUp_answers o s _).eq_next hea hthere
  · simp [flDiv1, hno, hc]
  · simp [flDiv1, hno, hc]

/-- 36: the S-digits of the most significant halves (R203 (i)). -/
theorem storesMulDiv_dd (hea : effM s o = .ok ea) (hthere : operandsThere (.dd o) s ea = true) :
    StoresMulDiv (flDiv (s.reg o.a).c12 (flOperand2 (s.reg o.a, s.reg (o.a + 1)))
        (flOperand2 (s.load ea, s.load (ea + 1))) 20 20 20 false)
      (s.reg o.a).c12 (s.load ea).c12 (.dd o) s (putFloatPair s o.a) :=
  .of_deposit2 ((arithPair_answers o s _).eq_next hea hthere)
    (fun c hno hc => by simp [flDivPair, hno, hc]) (fun hno hc => by simp [flDivPair, hno, hc])

/-- 37. -/
theorem storesMulDiv_dse (hea : effM s o = .ok ea) (hthere : operandsThere (.dse o) s ea = true) :
    StoresMulDiv (flDiv (s.reg o.a).c12 (flOperand2 (s.reg o.a, s.reg (o.a + 1))) (flOperand (s.load ea)) 20 9 20 false)
      (s.reg o.a).c12 (s.load ea).c12 (.dse o) s (putFloatPair s o.a) :=
  .of_deposit2 ((arithPairBy_answers o s _).eq_next hea hthere)
    (fun c hno hc => by simp [flDivPairBy, hno, hc]) (fun hno hc => by simp [flDivPairBy, hno, hc])

end

/-! ### Absolute zero (30_encoding.md R106) -/

section
variable {core : Option (Int × Nat)} {sa sm : Chr} {i : Instr} {s : State} {r : Nat}

theorem floatWord_period_zero : floatWord .period 0 0 = absoluteZero := by decide

theorem putFloat_zero : putFloat s r .period 0 (dig 2 0) = s.setReg r absoluteZero :=
  congrArg (s.setReg r) floatWord_period_zero

theorem putFloatPair_zero : putFloatPair s r .period 0 (dig 2 0) = s.setPair r absoluteZero absoluteZero := by
  have hl : fxWord .period 0 = absoluteZero := by decide
  rw [putFloatPair, Nat.zero_div, Nat.zero_mod, hl]
  exact congrArg (s.setPair r · absoluteZero) floatWord_period_zero

/-- Under a period a zero significand is stored as absolute zero. -/
theorem StoresMulDiv.exec_absoluteZero (h : StoresMulDiv core sa sm i s (putFloat s r)) (ha : ordinary sa = true)
    (hm : ordinary sm = true) (hp : sa = .period ∨ sm = .period) (hcore : ∃ e, core = some (e, 0)) :
    exec i s = .next ((s.setReg r absoluteZero).next) := by
  obtain ⟨e, he⟩ := hcore
  rw [h.exec_period ha hm hp he, putFloat_zero]

theorem StoresMulDiv.exec_absoluteZero_pair (h : StoresMulDiv core sa sm i s (putFloatPair s r)) (ha : ordinary sa = true)
    (hm : ordinary sm = true) (hp : sa = .period ∨ sm = .period) (hcore : ∃ e, core = some (e, 0)) :
    exec i s = .next ((s.setPair r absoluteZero absoluteZero).next) := by
  obtain ⟨e, he⟩ := hcore
  rw [h.exec_period ha hm hp he, putFloatPair_zero]

end

theorem isAbsoluteZero_flOperand {w : Word} (h : w = absoluteZero) : isAbsoluteZero w.c12 (flOperand w) = true := by
  subst h
  decide

theorem isAbsoluteZero_flOperand2 {sg : Chr} {h l : Word} (hsg : sg = .period) (hh : h = absoluteZero) (hl : fxmag l = 0) :
    isAbsoluteZero sg (flOperand2 (h, l)) = true := by
  subst hh
  exact decide_eq_true ⟨hsg, flexp_absoluteZero, by
    rw [flOperand2, dflsig, flsig_absoluteZero, hl, Nat.zero_mul]⟩

/-! ### Normalized signed numbers -/

/-- Settles O32: 23, 24 and 25 unrounded, 22 within the values of the rounding. -/
theorem floatMultiply : Obligations.FloatMultiply := by
  rintro o s ea f e sg hea hread hreg ha hm hna hnm rfl
  have hone := Bool.and_eq_true_iff.2 ⟨hread, hreg⟩
  have htwo := fun hreg' => Bool.and_eq_true_iff.2 ⟨hread, hasPair_of_hasReg hreg hreg'⟩
  refine ⟨fun hprod => ?_, fun hprod hreg' => ?_⟩
  · obtain ⟨hcore, hf⟩ := flMul_of_productDigits (s.reg o.a).c12 (s.load ea).c12 (by decide) (by decide) hna hnm (flsig_lt _)
      (flsig_lt _) hprod
    obtain ⟨e', f', hcore', hf', hround, hexact⟩ := flMul_rounded_of_productDigits (s.reg o.a).c12 (s.load ea).c12 hna hnm
      (flsig_lt _) (flsig_lt _) hprod
    refine ⟨?_, fun hreg' => ?_, e', f', hround, hexact, ?_⟩
    · exact (storesMulDiv_product (.m o) o.a false hea (by simp) hone).stored ha hm (congrArg some hcore) hf
    · exact (storesMulDiv_product (.mu o) (o.a + 1) false hea (by simp) (htwo hreg')).stored ha hm (congrArg some hcore) hf
    · exact (storesMulDiv_product (.mr o) o.a true hea (by simp) hone).stored ha hm (congrArg some hcore') hf'
  · obtain ⟨hcore, hf⟩ := flMul_of_productDigits (s.reg o.a).c12 (s.load ea).c12 (by decide) (by decide) hna hnm (flsig_lt _)
      (flsig_lt _) hprod
    exact (storesMulDiv_me hea (htwo hreg')).stored ha hm (congrArg some hcore) hf

/-- Settles O33: the same core on twenty digits. -/
theorem floatMultiplyDouble : Obligations.FloatMultiplyDouble := by
  rintro o s ea f e sg hea hsame hpair ha hm hna hnm rfl hprod
  obtain ⟨hcore, hf⟩ := flMul_of_productDigits (s.reg (o.a + 1)).c12 (s.load (ea + 1)).c12 (by decide) (by decide) hna hnm
    (dflsig_lt _ _) (dflsig_lt _ _) hprod
  exact (storesMulDiv_mm hea (Bool.and_eq_true_iff.2 ⟨hsame, hpair⟩)).stored ha hm (congrArg some hcore) hf

/-- Settles O36: 36 and 37 unrounded, 32 and 34 within the values of the rounding. -/
theorem floatDivide : Obligations.FloatDivide := by
  rintro o s ea f e sg hea hread hreg ha hm rfl
  have hone := Bool.and_eq_true_iff.2 ⟨hread, hreg⟩
  have htwo := fun hreg' => Bool.and_eq_true_iff.2 ⟨hread, hasPair_of_hasReg hreg hreg'⟩
  refine ⟨fun hna hnm hquot => ?_, fun hreg' hna => ⟨fun hnm hquot => ?_, fun hsame hnm hquot => ?_⟩⟩
  · obtain ⟨e', f', hcore, hf, hround, hexact⟩ := flDiv_rounded_of_quotientDigits (s.reg o.a).c12 hna hnm (flsig_lt _)
      (flsig_lt _) hquot
    refine ⟨e', f', hround, hexact, ?_, fun hreg' => ?_⟩
    · exact (storesMulDiv_quotient (.dr o) o.a hea (by simp) hone).stored ha hm hcore hf
    · exact (storesMulDiv_quotient (.dur o) (o.a + 1) hea (by simp) (htwo hreg')).stored ha hm hcore hf
  · obtain ⟨hcore, hf⟩ := flDiv_of_quotientDigits (s.reg o.a).c12 (by decide) (by decide) (by decide) hna hnm (dflsig_lt _ _)
      (flsig_lt _) hquot
    exact (storesMulDiv_dse hea (htwo hreg')).stored ha hm hcore hf
  · obtain ⟨hcore, hf⟩ := flDiv_of_quotientDigits (s.reg o.a).c12 (by decide) (by decide) (by decide) hna hnm (dflsig_lt _ _)
      (dflsig_lt _ _) hquot
    exact (storesMulDiv_dd hea (Bool.and_eq_true_iff.2 ⟨hsame, hasPair_of_hasReg hreg hreg'⟩)).stored ha hm hcore hf

/-! ### The contingencies of division (D24) -/

/-- Settles O37: the fixed-point quotient is missing unless the dividend is below the divisor, the floating-point one unless the
divisor is normalized. -/
theorem divideContingencies : Obligations.DivideContingencies := by
  intro o s ea hea ha hm
  refine ⟨fun hread hreg hle => ⟨?_, fun hreg' => ?_⟩, fun hread hreg hlt => ⟨?_, fun hreg' => ?_⟩,
    fun hsame hpair => ?_⟩
  · refine ⟨_, (arithA_answers o s _).eq_next hea (Bool.and_eq_true_iff.2 ⟨hread, hreg⟩), ?_⟩
    rw [fxDiv1_of_none ha hm (fxDiv_of_le hle)]
    exact raisedAs_deposit1 s o.a _ (by decide)
  · refine ⟨_, (arithExt_answers o s _).eq_next hea
      (Bool.and_eq_true_iff.2 ⟨hread, hasPair_of_hasReg hreg hreg'⟩), ?_⟩
    rw [fxDivRem_of_none ha hm (fxDiv_of_le hle)]
    exact raisedAs_deposit2 s o.a _ _ (by decide)
  · exact (storesMulDiv_quotient (.dr o) o.a hea (by simp) (Bool.and_eq_true_iff.2 ⟨hread, hreg⟩)).exec_none ha hm
      (flDiv_of_lt hlt _ _ _)
  · have htwo := Bool.and_eq_true_iff.2 ⟨hread, hasPair_of_hasReg hreg hreg'⟩
    exact ⟨(storesMulDiv_quotient (.dur o) (o.a + 1) hea (by simp) htwo).exec_none ha hm (flDiv_of_lt hlt _ _ _),
      (storesMulDiv_dse hea htwo).exec_none ha hm (flDiv_of_lt hlt _ _ _)⟩
  · have hpairs := Bool.and_eq_true_iff.2 ⟨hsame, hpair⟩
    refine ⟨fun hle => ⟨_, (arithPair_answers o s _).eq_next hea hpairs, ?_⟩, fun hlt => ?_⟩
    · rw [fxDivPair_of_none (s.reg o.a, s.reg (o.a + 1)) (s.load ea, s.load (ea + 1)) ha hm (fxDiv_of_le hle)]
      exact raisedAs_deposit2 s o.a _ _ (by decide)
    · exact (storesMulDiv_dd hea hpairs).exec_none ha hm (flDiv_of_lt hlt _ _ _)

/-! ### A period, and absolute zero -/

section
variable {o : Fields} {s : State} {ea : Nat} (hea : effM s o = .ok ea) (hread : readable s ea = true)
  (hreg : s.hasReg o.a = true) (ha : ordinary (s.reg o.a).c12 = true) (hm : ordinary (s.load ea).c12 = true)
include hea hread hreg ha hm

/-- 22, 23 and 24 of normalized numbers under a period. -/
theorem exec_singleProduct_period (hp : (s.reg o.a).c12 = .period ∨ (s.load ea).c12 = .period)
    (hna : normalized 9 (flsig (s.reg o.a)) = true) (hnm : normalized 9 (flsig (s.load ea)) = true) {f : Nat}
    (hprod : productSignificand 9 9 (flsig (s.reg o.a)) (flsig (s.load ea)) f) :
    exec (.m o) s = .next ((s.setReg o.a (floatWord .period 0 f)).next) ∧
    (s.hasReg (o.a + 1) = true → exec (.mu o) s = .next ((s.setReg (o.a + 1) (floatWord .period 0 f)).next)) ∧
    (∃ e f', roundedFrom 0 f e f' ∧ exec (.mr o) s = .next ((s.setReg o.a (floatWord .period 0 f')).next)) := by
  have hone := Bool.and_eq_true_iff.2 ⟨hread, hreg⟩
  obtain ⟨e, hdigits⟩ := hprod.exists_productDigits (flexp (s.reg o.a)) (flexp (s.load ea))
  obtain ⟨hcore, -⟩ := flMul_of_productDigits (s.reg o.a).c12 (s.load ea).c12 (by decide) (by decide) hna hnm (flsig_lt _)
    (flsig_lt _) hdigits
  obtain ⟨e', f', hcore', -, hround, -⟩ := flMul_rounded_of_productDigits (s.reg o.a).c12 (s.load ea).c12 hna hnm
    (flsig_lt _) (flsig_lt _) hdigits
  obtain ⟨c, hround⟩ := hround.shift 0
  refine ⟨?_, fun hreg' => ?_, c, f', hround, ?_⟩
  · exact (storesMulDiv_product (.m o) o.a false hea (by simp) hone).exec_period ha hm hp (congrArg some hcore)
  · exact (storesMulDiv_product (.mu o) (o.a + 1) false hea (by simp)
      (Bool.and_eq_true_iff.2 ⟨hread, hasPair_of_hasReg hreg hreg'⟩)).exec_period ha hm hp (congrArg some hcore)
  · exact (storesMulDiv_product (.mr o) o.a true hea (by simp) hone).exec_period ha hm hp (congrArg some hcore')

/-- 22 to 25 with a factor that is absolute zero. -/
theorem exec_singleProduct_absoluteZero (hzero : s.reg o.a = absoluteZero ∨ s.load ea = absoluteZero) :
    exec (.m o) s = .next ((s.setReg o.a absoluteZero).next) ∧
    exec (.mr o) s = .next ((s.setReg o.a absoluteZero).next) ∧
    (s.hasReg (o.a + 1) = true → exec (.mu o) s = .next ((s.setReg (o.a + 1) absoluteZero).next) ∧
      exec (.me o) s = .next ((s.setPair o.a absoluteZero absoluteZero).next)) := by
  have hone := Bool.and_eq_true_iff.2 ⟨hread, hreg⟩
  have hp : (s.reg o.a).c12 = .period ∨ (s.load ea).c12 = .period := hzero.imp (congrArg Word.c12) (congrArg Word.c12)
  have hcore : ∀ k rounded, ∃ e, some (flMul (s.reg o.a).c12 (s.load ea).c12 (flOperand (s.reg o.a))
      (flOperand (s.load ea)) 9 k rounded) = some (e, 0) := fun k rounded =>
    (flMul_of_isAbsoluteZero (hzero.imp isAbsoluteZero_flOperand isAbsoluteZero_flOperand) 9 k rounded).imp
      fun _ => congrArg some
  refine ⟨?_, ?_, fun hreg' => ?_⟩
  · exact (storesMulDiv_product (.m o) o.a false hea (by simp) hone).exec_absoluteZero ha hm hp (hcore 9 false)
  · exact (storesMulDiv_product (.mr o) o.a true hea (by simp) hone).exec_absoluteZero ha hm hp (hcore 9 true)
  · have htwo := Bool.and_eq_true_iff.2 ⟨hread, hasPair_of_hasReg hreg hreg'⟩
    exact ⟨(storesMulDiv_product (.mu o) (o.a + 1) false hea (by simp) htwo).exec_absoluteZero ha hm hp (hcore 9 false),
      (storesMulDiv_me hea htwo).exec_absoluteZero_pair ha hm hp (hcore 20 false)⟩

/-- 32, 34 and 37 with a dividend that is absolute zero. -/
theorem exec_quotient_absoluteZero (hnm : normalized 9 (flsig (s.load ea)) = true) (hzero : s.reg o.a = absoluteZero) :
    exec (.dr o) s = .next ((s.setReg o.a absoluteZero).next) ∧
    (s.hasReg (o.a + 1) = true → exec (.dur o) s = .next ((s.setReg (o.a + 1) absoluteZero).next) ∧
      (fxmag (s.reg (o.a + 1)) = 0 → exec (.dse o) s = .next ((s.setPair o.a absoluteZero absoluteZero).next))) := by
  have hsign : (s.reg o.a).c12 = .period := congrArg Word.c12 hzero
  have hcore := flDiv_of_isAbsoluteZero (m := flOperand (s.load ea)) (isAbsoluteZero_flOperand hzero) hnm 9 9 true
  refine ⟨?_, fun hreg' => ⟨?_, fun hlow => ?_⟩⟩
  · exact (storesMulDiv_quotient (.dr o) o.a hea (by simp) (Bool.and_eq_true_iff.2 ⟨hread, hreg⟩)).exec_absoluteZero ha hm
      (.inl hsign) hcore
  · exact (storesMulDiv_quotient (.dur o) (o.a + 1) hea (by simp)
      (Bool.and_eq_true_iff.2 ⟨hread, hasPair_of_hasReg hreg hreg'⟩)).exec_absoluteZero ha hm (.inl hsign) hcore
  · exact (storesMulDiv_dse hea (Bool.and_eq_true_iff.2 ⟨hread, hasPair_of_hasReg hreg hreg'⟩)).exec_absoluteZero_pair ha hm
      (.inl hsign) (flDiv_of_isAbsoluteZero (isAbsoluteZero_flOperand2 hsign hzero hlow) hnm _ _ _)

end

/-- Settles O34: the cores of O32, O33 and O36 again, under a period; with absolute zero the significand is zero. -/
theorem floatMultiplyPeriod : Obligations.FloatMultiplyPeriod := by
  rintro o s ea a m fa fa' fm fm' hea rfl rfl rfl rfl rfl rfl hreg hread
  have hone := Bool.and_eq_true_iff.2 ⟨hread, hreg⟩
  have htwo := fun hreg' => Bool.and_eq_true_iff.2 ⟨hread, hasPair_of_hasReg hreg hreg'⟩
  have hpairs := fun (hsame : sameRegion s.inst ea = true) hreg' =>
    Bool.and_eq_true_iff.2 ⟨hsame, hasPair_of_hasReg hreg hreg'⟩
  refine ⟨fun ha hm hp hnm => ⟨fun hna => ⟨fun f hprod => ?_, fun f hprod hreg' => ?_, fun e f hquot => ?_⟩,
      fun e f hna hquot hreg' => ?_, exec_quotient_absoluteZero hea hread hreg ha hm hnm⟩,
    fun hsame hreg' hm hnm hzero hlow => ?_,
    fun hsame hreg' hna hnm => ⟨fun ha hm hp f hprod => ?_, fun ha hm hp e f hquot => ?_⟩,
    exec_singleProduct_absoluteZero hea hread hreg, fun hsame hreg' ha hm hzero => ?_⟩
  · exact exec_singleProduct_period hea hread hreg ha hm hp hna hnm hprod
  · obtain ⟨e, hdigits⟩ := hprod.exists_productDigits (flexp (s.reg o.a)) (flexp (s.load ea))
    obtain ⟨hcore, -⟩ := flMul_of_productDigits (s.reg o.a).c12 (s.load ea).c12 (by decide) (by decide) hna hnm (flsig_lt _)
      (flsig_lt _) hdigits
    exact (storesMulDiv_me hea (htwo hreg')).exec_period ha hm hp (congrArg some hcore)
  · obtain ⟨e', f', hcore, -, hround, -⟩ := flDiv_rounded_of_quotientDigits (s.reg o.a).c12 hna hnm (flsig_lt _) (flsig_lt _)
      hquot
    refine ⟨e', f', hround, ?_, fun hreg' => ?_⟩
    · exact (storesMulDiv_quotient (.dr o) o.a hea (by simp) hone).exec_period ha hm hp hcore
    · exact (storesMulDiv_quotient (.dur o) (o.a + 1) hea (by simp) (htwo hreg')).exec_period ha hm hp hcore
  · obtain ⟨hcore, -⟩ := flDiv_of_quotientDigits (s.reg o.a).c12 (by decide) (by decide) (by decide) hna hnm (dflsig_lt _ _)
      (flsig_lt _) hquot
    exact (storesMulDiv_dse hea (htwo hreg')).exec_period ha hm hp hcore
  · have hsign : (s.reg o.a).c12 = .period := congrArg Word.c12 hzero
    exact (storesMulDiv_dd hea (hpairs hsame hreg')).exec_absoluteZero_pair (ordinary_iff.2 (.inr hsign)) hm (.inl hsign)
      (flDiv_of_isAbsoluteZero (isAbsoluteZero_flOperand2 hsign hzero hlow) hnm _ _ _)
  · obtain ⟨e, hdigits⟩ := hprod.exists_productDigits (flexp (s.reg o.a)) (flexp (s.load ea))
    obtain ⟨hcore, -⟩ := flMul_of_productDigits (s.reg (o.a + 1)).c12 (s.load (ea + 1)).c12 (by decide) (by decide) hna hnm
      (dflsig_lt _ _) (dflsig_lt _ _) hdigits
    exact (storesMulDiv_mm hea (hpairs hsame hreg')).exec_period ha hm hp (congrArg some hcore)
  · obtain ⟨hcore, -⟩ := flDiv_of_quotientDigits (s.reg o.a).c12 (by decide) (by decide) (by decide) hna hnm (dflsig_lt _ _)
      (dflsig_lt _ _) hquot
    exact (storesMulDiv_dd hea (hpairs hsame hreg')).exec_period ha hm hp hcore
  · have hoperand : ∀ {h l : Word}, h = absoluteZero ∧ l = absoluteZero → isAbsoluteZero l.c12 (flOperand2 (h, l)) = true :=
      fun hw => isAbsoluteZero_flOperand2 (congrArg Word.c12 hw.2) hw.1 (by rw [hw.2, fxmag_absoluteZero])
    exact (storesMulDiv_mm hea (hpairs hsame hreg')).exec_absoluteZero_pair ha hm
      (hzero.imp (fun hw => congrArg Word.c12 hw.2) fun hw => congrArg Word.c12 hw.2)
      ((flMul_of_isAbsoluteZero (hzero.imp hoperand hoperand) _ _ _).imp fun _ => congrArg some)

end Sys2Proof.Machine
end

section
/-! Data transfer (42_data_transfer.md R260 to R275, R290): what a store leaves, the words of the negative and the absolute stores,
and the five statements, each read off what the instruction answers. -/

namespace Sys2Proof.Machine
open Sys2Proof

/-! ### What a store leaves (20_memory.md R67) -/

/-- `u` is `s` but for registers and storage: no flip-flop, no pending event and nothing of the run has changed. -/
structure OnlyData (s u : State) : Prop where
  ff : u.ff = s.ff
  trap : u.trap = s.trap
  run : SameRun s u

theorem onlyData_store (s : State) (a : Nat) (w : Word) : OnlyData s (s.store a w) :=
  ⟨by simp, by simp, by constructor <;> simp⟩

theorem onlyData_store_store (s : State) (a : Nat) (h l : Word) : OnlyData s ((s.store a h).store (a + 1) l) :=
  ⟨by simp, by simp, by constructor <;> simp⟩

theorem OnlyData.inSequence {s u : State} (hu : OnlyData s u) (ks : List Nat) :
    inSequence s (u.next.raiseContingency ks) := by
  simp [Machine.inSequence, hu.run.pc, hu.run.c2, hu.run.inst]

/-- The flip-flops and the run do not depend on core storage, so `OnlyRegisters.raisedAs` speaks of stores as well. -/
theorem OnlyData.raisedAs {s u : State} (hu : OnlyData s u) : raisedAs s (u.next.raiseContingency [45]) 45 [] :=
  have hregs : OnlyRegisters { s with mem := u.mem } u :=
    ⟨hu.ff, rfl, ⟨hu.run.pc, hu.run.c2, hu.run.stopped, hu.run.inst, hu.run.schedule, hu.run.written, hu.run.tick⟩⟩
  (hregs.raisedAs (by decide)).1

/-- The end of an instruction writes nothing that an address reads. -/
theorem load_next_raiseContingency (u : State) (ks : List Nat) (b : Nat) :
    (u.next.raiseContingency ks).load b = u.load b := load_congr (by simp) (by simp) (by simp) b

/-- What every address reads as after a store of two words. -/
theorem load_store_store (s : State) (a b : Nat) (h l : Word) (hm : s.mem.wf = true) (hsame : sameRegion s.inst a = true) :
    ((s.store a h).store (a + 1) l).load b = if b = a + 1 then l else if b = a then h else s.load b := by
  obtain ⟨ha, ha'⟩ := writable_of_same hsame
  rw [load_store _ _ _ _ (store_mem_wf s a h hm) (by simpa using ha'), load_store _ _ _ _ hm ha]

/-- The address 999rr reads register rr (20_memory.md R65). -/
theorem load_of_fast {s : State} {a r : Nat} (h : region s.inst a = .fast r) : s.load a = s.reg r := by
  simp only [State.load, h]

/-- One word stored, and the next instruction. -/
theorem store_next (s : State) (a : Nat) (w : Word) (hm : s.mem.wf = true) (ha : writable s a = true) :
    inSequence s (s.store a w).next ∧ (s.store a w).next.ff = s.ff ∧
      ∀ b, (s.store a w).next.load b = if b = a then w else s.load b :=
  ⟨(onlyData_store s a w).inSequence [], (onlyData_store s a w).ff,
    fun b => (load_next_raiseContingency _ [] b).trans (load_store s a b w hm ha)⟩

/-! ### The words of the stores (R260) -/

/-- The anomaly of a negative store, in the words of the statements. -/
theorem negAnomaly_eq (w : Word) : negAnomaly w = !ordinary w.c12 := by
  rw [negAnomaly, Bool.eq_iff_iff, decide_eq_true_iff, cls_nz_or_ot]
  simp

/-- Under an ordinary sign `negWord` changes the sign alone, and a period not even that. -/
theorem negWord_of_ordinary {w : Word} (h : ordinary w.c12 = true) {n : Word → Word}
    (hn : ∀ w : Word, (w.c12 = .d 0 → n w = { w with c12 := .minus }) ∧ (w.c12 = .minus → n w = { w with c12 := .d 0 }) ∧
      (w.c12 = .period → n w = w)) (tick slot : Nat) : negWord w tick slot = n w := by
  obtain ⟨hzero, hminus, hperiod⟩ := hn w
  rcases ordinary_iff.1 h with hplain | hp
  · rcases plain_iff.1 hplain with hz | hmi
    · rw [hzero hz, negWord, hz]
      rfl
    · rw [hminus hmi, negWord, hmi]
      rfl
  · rw [hperiod hp, negWord, hp]
    rfl

/-- Under any other sign a zero is deposited in the sign position. -/
theorem negWord_c12_of_anomaly {w : Word} (h : ordinary w.c12 = false) (tick slot : Nat) :
    (negWord w tick slot).c12 = .d 0 := by
  rcases (cls_nz_or_ot w.c12).2 h with hc | hc <;> rw [negWord, hc] <;> rfl

/-- What 93 stores in core: an instruction 90 under selector 9 (R290, C9). -/
theorem sljWord_core {s : State} {a : Nat} (h : region s.inst a = .core) :
    sljWord s a = Word.ofChars (.d 9 :: .d 9 :: .d 0 :: [.d 0, .d 0, .d 0, .d 0] ++ dig 5 s.c2) := by
  simp only [sljWord, h]
  rfl

/-- What 93 stores in a fast register: the address alone (R290, D41). -/
theorem sljWord_fast {s : State} {a r : Nat} (h : region s.inst a = .fast r) :
    sljWord s a = Word.ofChars (.d 0 :: .d 0 :: .d 0 :: [.d 0, .d 0, .d 0, .d 0] ++ dig 5 s.c2) := by
  simp only [sljWord, h]
  rfl

/-! ### What the stores answer -/

section
variable {o : Fields} {s : State} {ea : Nat} (hea : effM s o = .ok ea) (hm : s.mem.wf = true)
include hea hm

/-- A store of one word without an anomaly. -/
theorem storeOne_quiet (hw : writable s ea = true) (ha : canSupply s o.a = true) (f : Word → Nat → Word) (bad : Word → Bool)
    (hbad : bad (s.reg o.a) = false) :
    ∃ t, outcome (storeOne f bad o s) = .next t ∧ inSequence s t ∧ t.ff = s.ff ∧
      ∀ b, t.load b = if b = ea then f (s.reg o.a) s.tick else s.load b := by
  refine ⟨_, (storeOne_answers o s f bad).eq_next hea (Bool.and_eq_true_iff.2 ⟨hw, ha⟩), ?_⟩
  rw [hbad]
  exact store_next s ea _ hm hw

/-- The state `u` that a store of two words leaves, with or without an anomaly; contingencies raised in it change nothing in
storage. -/
theorem storeTwo_spec (hsame : sameRegion s.inst ea = true) (hpair : hasPair s o.a = true) (f : Word → Nat → Nat → Word)
    (bad : Word → Bool) :
    ∃ u, OnlyData s u ∧
      outcome (storeTwo f bad o s) =
        .next (u.next.raiseContingency (negRaised (bad (s.reg o.a) || bad (s.reg (o.a + 1))))) ∧
      ∀ ks b, (u.next.raiseContingency ks).load b =
        if b = ea + 1 then f (s.reg (o.a + 1)) s.tick 1 else if b = ea then f (s.reg o.a) s.tick 0 else s.load b :=
  ⟨_, onlyData_store_store s ea _ _, (storeTwo_answers o s f bad).eq_next hea (Bool.and_eq_true_iff.2 ⟨hsame, hpair⟩),
    fun ks b => (load_next_raiseContingency _ ks b).trans (load_store_store s ea b _ _ hm hsame)⟩

/-- A store of two words that knows no anomaly. -/
theorem storeTwo_quiet (hsame : sameRegion s.inst ea = true) (hpair : hasPair s o.a = true) (f : Word → Nat → Nat → Word) :
    ∃ t, outcome (storeTwo f (fun _ => false) o s) = .next t ∧ inSequence s t ∧ t.ff = s.ff ∧
      ∀ b, t.load b =
        if b = ea + 1 then f (s.reg (o.a + 1)) s.tick 1 else if b = ea then f (s.reg o.a) s.tick 0 else s.load b := by
  obtain ⟨u, hu, hexec, hload⟩ := storeTwo_spec hea hm hsame hpair f (fun _ => false)
  exact ⟨_, hexec, hu.inSequence _, hu.ff, hload _⟩

end

/-! ### The statements -/

/-- Settles O38: the four stores are the two shapes, with (A) or its absolute value for the word. -/
theorem stores : Obligations.Stores := by
  intro o s ea hea hm
  refine ⟨fun hw ha => ⟨?_, ?_⟩, fun hsame hpair => ⟨?_, ?_⟩⟩
  · exact storeOne_quiet hea hm hw ha (fun a _ => a) (fun _ => false) rfl
  · exact storeOne_quiet hea hm hw ha (fun a _ => absWord a) (fun _ => false) rfl
  · exact storeTwo_quiet hea hm hsame hpair (fun a _ _ => a)
  · exact storeTwo_quiet hea hm hsame hpair (fun a _ _ => absWord a)

/-- 41 under an anomalous sign (R262). -/
theorem exec_sn_anomaly {o : Fields} {s : State} {ea : Nat} (hea : effM s o = .ok ea) (hm : s.mem.wf = true)
    (hw : writable s ea = true) (ha : canSupply s o.a = true) (hbad : ordinary (s.reg o.a).c12 = false) :
    ∃ t, exec (.sn o) s = .next t ∧ inSequence s t ∧ raisedAs s t 45 [] ∧ (t.load ea).c12 = .d 0 ∧
      ∀ b, b ≠ ea → t.load b = s.load b := by
  refine ⟨_, (storeOne_answers o s _ negAnomaly).eq_next hea (Bool.and_eq_true_iff.2 ⟨hw, ha⟩), ?_⟩
  have hu := onlyData_store s ea (negWord (s.reg o.a) s.tick 0)
  rw [negAnomaly_eq, hbad]
  refine ⟨hu.inSequence _, hu.raisedAs, ?_, fun b hb => ?_⟩
  · rw [load_next_raiseContingency, load_store _ _ _ _ hm hw, if_pos rfl, negWord_c12_of_anomaly hbad]
  · rw [load_next_raiseContingency, load_store _ _ _ _ hm hw, if_neg hb]

/-- Settles O39: 41 by its sign, 46 half by half; the contingency is raised last and touches no storage. -/
theorem negativeStores : Obligations.NegativeStores := by
  intro o s ea n hea hm hn
  refine ⟨fun hw ha => ⟨fun hord => ?_, exec_sn_anomaly hea hm hw ha⟩, fun hsame hpair => ?_⟩
  · rw [← negWord_of_ordinary hord hn s.tick 0]
    exact storeOne_quiet hea hm hw ha (fun a t => negWord a t 0) negAnomaly (by rw [negAnomaly_eq, hord]; rfl)
  · obtain ⟨u, hu, hexec, hload⟩ := storeTwo_spec hea hm hsame hpair negWord negAnomaly
    rw [negAnomaly_eq, negAnomaly_eq] at hexec
    have hfirst : ∀ ks, (u.next.raiseContingency ks).load ea = negWord (s.reg o.a) s.tick 0 := fun ks => by
      rw [hload, if_neg (by omega), if_pos rfl]
    have hsecond : ∀ ks, (u.next.raiseContingency ks).load (ea + 1) = negWord (s.reg (o.a + 1)) s.tick 1 := fun ks => by
      rw [hload, if_pos rfl]
    refine ⟨_, hexec, hu.inSequence _, fun h => ?_, fun h => ?_, fun h => ?_, fun h => ?_, fun b h h' => ?_, ?_⟩
    · rw [hfirst, negWord_of_ordinary h hn]
    · rw [hsecond, negWord_of_ordinary h hn]
    · rw [hfirst, negWord_c12_of_anomaly h]
    · rw [hsecond, negWord_c12_of_anomaly h]
    · rw [hload, if_neg h', if_neg h]
    · split
      · next h =>
        rw [h.1, h.2]
        exact ⟨hu.ff, hu.trap⟩
      · next h =>
        have hbad : (!ordinary (s.reg o.a).c12 || !ordinary (s.reg (o.a + 1)).c12) = true := by
          rw [← Bool.not_and, Bool.not_eq_true', ← Bool.not_eq_true, Bool.and_eq_true_iff]
          exact h
        rw [hbad]
        exact hu.raisedAs

/-- Settles O40: both words of M' are read in the state before the fetch. -/
theorem fetches : Obligations.Fetches := by
  intro o s ea hea
  refine ⟨fun hread hreg => (execF_answers o s).eq_next hea (Bool.and_eq_true_iff.2 ⟨hread, hreg⟩), fun hsame hpair => ?_⟩
  obtain ⟨hr, hr'⟩ := Bool.and_eq_true_iff.1 hpair
  have hexec := (execFf_answers o s).eq_next hea (Bool.and_eq_true_iff.2 ⟨hsame, hpair⟩)
  have hregs : ∀ q, (s.setPair o.a (s.load ea) (s.load (ea + 1))).next.reg q =
      if q = o.a + 1 then s.load (ea + 1) else if q = o.a then s.load ea else s.reg q :=
    fun q => (reg_congr rfl q).trans (reg_setPair s o.a q _ _ hr hr')
  refine ⟨_, hexec, ⟨rfl, rfl⟩, rfl, rfl, ?_, ?_, fun r h h' => ?_⟩
  · rw [hregs, if_neg (by omega), if_pos rfl]
  · rw [hregs, if_pos rfl]
  · rw [hregs, if_neg h', if_neg h]

/-- Settles O41: each of the five slices, put back at its own positions. -/
theorem extractPart_spec : Obligations.ExtractPart := by
  rintro o s ea m a hea hread hreg rfl rfl
  have part : ∀ hi lo w, splice (s.reg o.a) hi lo (slice (s.load ea) hi lo) = w →
      outcome (extractPart hi lo o s) = .next ((s.setReg o.a w).next) := by
    rintro hi lo w rfl
    exact (extractPart_answers o s hi lo).eq_next hea (Bool.and_eq_true_iff.2 ⟨hread, hreg⟩)
  exact ⟨part 12 10 _ rfl, part 9 8 _ rfl, part 7 6 _ rfl, part 9 6 _ rfl, part 5 1 _ rfl⟩

/-- Settles O42: the region of the address decides which of the two words is stored. -/
theorem storeC2 : Obligations.StoreC2 := by
  rintro o s ea z hea hm rfl
  have stored : writable s ea = true → exec (.slj o) s = .next (s.store ea (sljWord s ea)).next :=
    (execSlj_answers o s).eq_next hea
  refine ⟨fun hcore => ?_, fun r hfast => ?_⟩
  · have hw : writable s ea = true := by rw [writable, hcore]; rfl
    refine ⟨_, stored hw, ?_⟩
    rw [sljWord_core hcore]
    exact store_next s ea _ hm hw
  · have hw : writable s ea = true := by rw [writable, hfast]; rfl
    obtain ⟨hseq, hff, hload⟩ := store_next s ea (sljWord s ea) hm hw
    refine ⟨_, stored hw, hseq, hff, ?_, fun b hb => by rw [hload, if_neg hb]⟩
    rw [← load_of_fast (a := ea) (by simpa using hfast), hload, if_pos rfl, sljWord_fast hfast]

end Sys2Proof.Machine
end

section
/-! Conditional transfer of control (43_conditional_transfer.md R300 to R303, R310 to R316, R318): what the outcome of a test does
to C, C2 and the flip-flops, the order the keys give, and the five statements, each read off what the test answers. -/

namespace Sys2Proof.Machine
open Sys2Proof

/-! ### The outcome of a test (R300) -/

/-- A test that is not blocked is the transfer by its truth value. -/
theorem condXfer_ofBool (s : State) (ea : Nat) (b : Bool) : condXfer s ea (.ofBool b) = s.branch b ea := by
  cases b <;> rfl

/-- `t` is a state after a test of effective address `ea` that a sign blocked. -/
structure BlockedLeft (s : State) (ea : Nat) (t : State) : Prop where
  raised : raisedAs s t 45 []
  pc : t.pc = succAddr s.inst s.pc
  c2 : t.c2 = ea
  x : t.x = s.x
  mem : t.mem = s.mem

/-- The flip-flops do not depend on C2, so `OnlyRegisters.raisedAs` speaks of a blocked test as well. -/
theorem blockedLeft_condXfer (s : State) (ea : Nat) : BlockedLeft s ea (condXfer s ea .blocked) where
  raised :=
    have hregs : OnlyRegisters { s with c2 := ea } { s with c2 := ea } := ⟨rfl, rfl, by constructor <;> rfl⟩
    (hregs.raisedAs (by decide)).1
  pc := by simp [condXfer]
  c2 := by simp [condXfer]
  x := by simp [condXfer]
  mem := by simp [condXfer]

/-- An instruction that answers a blocked test. -/
theorem Answers.blocked {out : Out} {s : State} {o : Fields} {there : Nat → Bool} {c : Nat → Cond} {ea : Nat}
    (hans : Answers out s o there (fun a => condXfer s a (c a))) (hea : effM s o = .ok ea) (hthere : there ea = true)
    (hc : c ea = .blocked) : ∃ t, out = .next t ∧ BlockedLeft s ea t := by
  refine ⟨_, hans.eq_next hea hthere, ?_⟩
  rw [hc]
  exact blockedLeft_condXfer s ea

/-- An instruction that answers a test with a truth value. -/
theorem Answers.tested {out : Out} {s : State} {o : Fields} {there : Nat → Bool} {c : Nat → Cond} {ea : Nat} {b : Bool}
    (hans : Answers out s o there (fun a => condXfer s a (c a))) (hea : effM s o = .ok ea) (hthere : there ea = true)
    (hc : c ea = .ofBool b) : out = .next (s.branch b ea) := by
  rw [hans.eq_next hea hthere, hc, condXfer_ofBool]

/-- A comparison whose words carry no blocking sign (R302). -/
theorem testTwo_unblocked {o : Fields} {s : State} {ea : Nat} (hea : effM s o = .ok ea) (hpair : hasPair s o.a = true)
    (hu : foreignSign (s.reg o.a).c12 = false) (hw : foreignSign (s.reg (o.a + 1)).c12 = false) (p : Word → Word → Bool) :
    outcome (testTwo p o s) = .next (s.branch (p (s.reg o.a) (s.reg (o.a + 1))) ea) :=
  (testTwo_answers o s p).tested hea hpair (by simp [blocks_eq, hu, hw])

/-- A comparison of pairs whose four words carry no blocking sign (R302). -/
theorem testFour_unblocked {o : Fields} {s : State} {ea : Nat} (hea : effM s o = .ok ea) (hpair : hasPair s o.a = true)
    (hpair' : hasPair s (o.a + 2) = true) (hu : foreignSign (s.reg o.a).c12 = false)
    (hv : foreignSign (s.reg (o.a + 1)).c12 = false) (hw : foreignSign (s.reg (o.a + 2)).c12 = false)
    (hz : foreignSign (s.reg (o.a + 3)).c12 = false) (p : Word × Word → Word × Word → Bool) :
    outcome (testFour p o s) =
      .next (s.branch (p (s.reg o.a, s.reg (o.a + 1)) (s.reg (o.a + 2), s.reg (o.a + 3))) ea) :=
  (testFour_answers o s p).tested hea (Bool.and_eq_true_iff.2 ⟨hpair, hpair'⟩) (by simp [blocks_eq, hu, hv, hw, hz])

/-! ### The keys (R303) -/

section
variable {u w : Word}

theorem key_of_plain (h : plain u.c12 = true) : key u = fixedValue u := by
  rcases plain_iff.1 h with hz | hm
  · simp [key, fixedValue, signed, hz, cls]
  · simp [key, fixedValue, signed, hm, cls]

theorem key_of_period (h : u.c12 = .period) : key u = fxmag u := by simp [key, h, cls]

theorem key_of_numericSign (h : numericSign u.c12 = true) :
    key u = ((digitValue u.c12 * 10 ^ 11 + fxmag u : Nat) : Int) := by
  simp only [key, (cls_eq_nz _).2 h]

theorem digitValue_pos_of_numericSign {c : Chr} (h : numericSign c = true) : 0 < digitValue c := by
  cases c with
  | d n =>
    have hn : n ≠ 0 := by simpa [numericSign, isNum] using h
    exact Fin.pos_iff_ne_zero.2 hn
  | minus | period | ignore | other k => simp [numericSign, isNum] at h

/-- Under zero, minus or period the key is at most the magnitude. -/
theorem key_le_of_ordinary (h : ordinary u.c12 = true) : key u ≤ fxmag u := by
  rcases ordinary_iff.1 h with hplain | hperiod
  · rw [key_of_plain hplain, fixedValue, signed]
    split <;> omega
  · rw [key_of_period hperiod]

/-- A numeric sign other than zero is worth more than eleven digits. -/
theorem key_lt_of_numericSign (hu : numericSign u.c12 = true) (hw : ordinary w.c12 = true) : key w < key u := by
  have hle := key_le_of_ordinary hw
  have hmag := fxmag_lt w
  have hpos := digitValue_pos_of_numericSign hu
  rw [key_of_numericSign hu]
  omega

/-- Twelve digits are compared as one number. -/
theorem key_of_all_isNum (h : (slice u 12 1).all isNum = true) : key u = num (slice u 12 1) := by
  have hparts : slice u 12 1 = [u.c12] ++ slice u 11 1 := rfl
  rw [hparts, List.all_append, Bool.and_eq_true_iff] at h
  obtain ⟨hsign, hmag⟩ := h
  have hc : isNum u.c12 = true := by simpa using hsign
  have hnum : num (slice u 12 1) = digitValue u.c12 * 10 ^ 11 + fxmag u := by
    rw [hparts, num_append hsign hmag, num_of_all hsign, slice_length _ _ _ (by decide) (by decide)]
    simp [decimal, fxmag]
  rw [hnum]
  by_cases hz : u.c12 = .d 0
  · simp [key_of_plain (plain_iff.2 (.inl hz)), fixedValue, signed, hz, digitValue]
  · exact key_of_numericSign (by simp [numericSign, hc, hz])

/-! ### The comparison of two words (R303) -/

/-- Where no minus zero meets a zero, words compare as their keys (D25 says nothing then). -/
theorem cmpWords_eq_compare (h : key u = key w → (u.c12 = .minus ↔ w.c12 = .minus)) :
    cmpWords u w = compare (key u) (key w) := by
  unfold cmpWords
  rcases lt_trichotomy (key u) (key w) with hlt | heq | hgt
  · rw [if_pos hlt, compare_lt_iff_lt.2 hlt]
  · have hminus : isMinus u = isMinus w := by simp only [isMinus, h heq]
    rw [if_neg heq.not_lt, if_neg heq.not_gt, if_pos hminus, compare_eq_iff_eq.2 heq]
  · rw [if_neg hgt.not_gt, if_pos hgt, compare_gt_iff_gt.2 hgt]

/-- Of two words with one key, one under a minus sign is not the greater, whatever D25 decides. -/
theorem cmpWords_ne_gt_of_minus (hkey : key u = key w) (hu : u.c12 = .minus) : cmpWords u w ≠ .gt := by
  unfold cmpWords
  rw [if_neg hkey.not_lt, if_neg hkey.not_gt]
  split
  · decide
  · split
    · decide
    · rw [if_pos (by simp [isMinus, hu])]
      decide

/-! ### Equality digit by digit (R301, R315) -/

theorem periodAsZero_eq (u : Word) :
    periodAsZero u = wordOf (if u.c12 = .period then .d 0 else u.c12) (slice u 11 1) := by
  unfold periodAsZero
  split <;> rfl

theorem wordOf_inj {c d : Chr} {k l : List Chr} (hk : k.length = 11) (hl : l.length = 11) :
    wordOf c k = wordOf d l ↔ c = d ∧ k = l := by
  refine ⟨fun h => ⟨congrArg Word.c12 h, ?_⟩, fun ⟨hc, hkl⟩ => by rw [hc, hkl]⟩
  rw [← slice_wordOf c k hk, h, slice_wordOf d l hl]

/-- Two sign characters agree when they do with a zero written for a period. -/
theorem sameSign_iff (c d : Chr) :
    sameSign c d = true ↔ (if c = .period then Chr.d 0 else c) = (if d = .period then Chr.d 0 else d) := by
  rw [sameSign, decide_eq_true_iff]
  by_cases hc : c = .period <;> by_cases hd : d = .period <;> simp [hc, hd, eq_comm]

theorem periodAsZero_eq_iff :
    periodAsZero u = periodAsZero w ↔ sameSign u.c12 w.c12 = true ∧ slice u 11 1 = slice w 11 1 := by
  rw [periodAsZero_eq, periodAsZero_eq, wordOf_inj rfl rfl, sameSign_iff]

theorem pairsEqual_eq (u v w z : Word) :
    pairsEqual (u, v) (w, z) = (sameSign u.c12 w.c12 && sameSign v.c12 z.c12 &&
      decide (slice u 11 1 = slice w 11 1 ∧ slice v 11 1 = slice z 11 1)) := by
  rw [Bool.eq_iff_iff]
  simp only [pairsEqual, periodAsZero_eq_iff, decide_eq_true_iff, Bool.and_eq_true]
  tauto

/-! ### The tests of one word (R312 to R314) -/

theorem zeroTest_of_ordinary (h : ordinary u.c12 = true) : zeroTest u = .ofBool (decide (fxmag u = 0)) := by
  obtain ⟨hnz, hot⟩ := cls_of_ordinary h
  unfold zeroTest
  cases hc : cls u.c12 with
  | nz => exact absurd hc hnz
  | ot => exact absurd hc hot
  | z | mi | p => rfl

theorem zeroTest_blocked (h : ordinary u.c12 = false) : zeroTest u = .blocked := by
  rcases (cls_nz_or_ot u.c12).2 h with hc | hc <;> simp only [zeroTest, hc]

theorem cls_eq_mi (c : Chr) : cls c = .mi ↔ c = .minus := by
  cases c with
  | d n => by_cases hn : n = 0 <;> simp [cls, hn]
  | minus => decide
  | period => decide
  | ignore => decide
  | other k => simp [cls]

theorem positiveTest_blocked (h : foreignSign u.c12 = true) : positiveTest u = .blocked := by
  simp only [positiveTest, (cls_eq_ot _).2 h]

theorem negativeTest_blocked (h : foreignSign u.c12 = true) : negativeTest u = .blocked := by
  simp only [negativeTest, (cls_eq_ot _).2 h]

theorem positiveTest_of_unblocked (h : foreignSign u.c12 = false) :
    positiveTest u = .ofBool (numericSign u.c12 || (decide (u.c12 ≠ .minus) && decide (0 < fxmag u))) := by
  have hnz := cls_eq_nz u.c12
  have hmi := cls_eq_mi u.c12
  unfold positiveTest
  cases hc : cls u.c12 with
  | ot => simp [(cls_eq_ot _).1 hc] at h
  | nz => simp [hnz.1 hc, Cond.ofBool]
  | mi => simp [hmi.1 hc, numericSign, isNum, Cond.ofBool]
  | z | p =>
    have hn : numericSign u.c12 = false := by simpa [hc] using hnz
    have hm : u.c12 ≠ .minus := by simpa [hc] using hmi
    simp [hn, hm]

theorem negativeTest_of_unblocked (h : foreignSign u.c12 = false) :
    negativeTest u = .ofBool (decide (u.c12 = .minus)) := by
  have hmi := cls_eq_mi u.c12
  unfold negativeTest
  cases hc : cls u.c12 with
  | ot => simp [(cls_eq_ot _).1 hc] at h
  | mi => simp [hmi.1 hc, Cond.ofBool]
  | z | nz | p =>
    have hm : u.c12 ≠ .minus := by simpa [hc] using hmi
    simp [hm, Cond.ofBool]

end

/-! ### The statements -/

/-- Settles O43: the comparison is that of the keys, and the keys are what R303 says. -/
theorem compareWords : Obligations.CompareWords := by
  refine ⟨?_, fun u w => ⟨fun h => ?_, key_lt_of_numericSign, fun hu hw => ?_, key_of_plain⟩⟩
  · rintro o s ea u w hea hpair rfl rfl hu hw
    have equal : exec (.te o) s = .next (s.branch (decide (cmpWords (s.reg o.a) (s.reg (o.a + 1)) = .eq)) ea) :=
      testTwo_unblocked hea hpair hu hw _
    have greater : exec (.tg o) s = .next (s.branch (decide (cmpWords (s.reg o.a) (s.reg (o.a + 1)) = .gt)) ea) :=
      testTwo_unblocked hea hpair hu hw _
    refine ⟨fun h => ?_, fun hkey hminus => ?_, ⟨_, equal⟩, ⟨_, greater⟩⟩
    · rw [equal, greater, cmpWords_eq_compare h]
      simp only [compare_eq_iff_eq, compare_gt_iff_gt, and_self]
    · rw [greater, decide_eq_false (cmpWords_ne_gt_of_minus hkey hminus)]
  · rw [key_of_period h]
    rfl
  · rw [key_of_all_isNum hu, key_of_all_isNum hw, Int.ofNat_lt]

/-- Settles O44: each test by the class of the sign. -/
theorem zeroTests : Obligations.ZeroTests := by
  rintro o s ea u hea hsupply rfl
  exact ⟨fun h => (testOne_answers o s _).tested hea hsupply (zeroTest_of_ordinary h), fun h =>
    ⟨(testOne_answers o s _).tested hea hsupply (positiveTest_of_unblocked h),
      (testOne_answers o s _).tested hea hsupply (negativeTest_of_unblocked h)⟩⟩

/-- Settles O45: 75 position by position, 76 by the order of the keys, that of the most significant halves first. -/
theorem comparePairs : Obligations.ComparePairs := by
  rintro o s ea u v w z hea hpair hpair' rfl rfl rfl rfl hu hv hw hz
  have tested := testFour_unblocked hea hpair hpair' hu hv hw hz
  have equal : exec (.tte o) s = _ := tested pairsEqual
  have greater : exec (.ttg o) s = _ := tested pairGreater
  rw [equal, greater, pairsEqual_eq]
  refine ⟨rfl, fun h => ?_, fun h => ?_, fun h hsign hsign' => ?_⟩
  · rw [pairGreater, cmpWords_eq_compare fun heq => absurd heq h.ne', compare_gt_iff_gt.2 h]
  · rw [pairGreater, cmpWords_eq_compare fun heq => absurd heq h.ne, compare_lt_iff_lt.2 h]
  · rw [pairGreater, cmpWords_eq_compare fun _ => hsign, cmpWords_eq_compare hsign', compare_eq_iff_eq.2 h]
    simp only [compare_gt_iff_gt]

/-- Settles O46: the signs that block each comparison make its outcome `blocked`, and `BlockedLeft` has the parts the statement
lists. -/
theorem blockedComparison : Obligations.BlockedComparison := by
  intro i o s ea hea hthere h
  suffices hblocked : ∃ t, exec i s = .next t ∧ BlockedLeft s ea t by
    obtain ⟨t, hexec, hleft⟩ := hblocked
    exact ⟨t, hexec, hleft.raised, hleft.pc, hleft.c2, hleft.x, hleft.mem⟩
  rcases h with ⟨hi, hbad⟩ | ⟨rfl, hbad⟩ | ⟨hi, hbad⟩ | ⟨hi, hbad⟩
  · simp only [← blocks_eq] at hbad
    rcases List.mem_pair.1 hi with rfl | rfl <;>
      exact (testTwo_answers o s _).blocked hea hthere (if_pos hbad)
  · exact (testOne_answers o s _).blocked hea hthere (zeroTest_blocked hbad)
  · rcases List.mem_pair.1 hi with rfl | rfl
    · exact (testOne_answers o s _).blocked hea hthere (positiveTest_blocked hbad)
    · exact (testOne_answers o s _).blocked hea hthere (negativeTest_blocked hbad)
  · simp only [← blocks_eq] at hbad
    rcases List.mem_pair.1 hi with rfl | rfl <;>
      exact (testFour_answers o s _).blocked hea hthere (if_pos hbad)

/-- A flip-flop that 95 may not test (10_state.md R37, D36). -/
theorem execTf_refused {o : Fields} {s : State} {ea : Nat} (hea : effM s o = .ok ea) (h : permitted (.tf o) = false) :
    execTf o s = .refused (.flipFlopOperation o.a) := by
  rw [execTf, hea, res_ok_bind, marksOf_eq, if_neg (by simp [h]), outcome_refused]

/-- Settles O47: the numbers the table of B-6 does not define are not permitted. -/
theorem testFlipFlop : Obligations.TestFlipFlop := by
  intro o s ea hea
  refine ⟨fun h => (execTf_answers o s).tested hea h rfl, fun h => execTf_refused hea ?_⟩
  have undefined : ∀ k ∈ [12, 13, 14, 16, 17, 18, 19, 35, 36, 37, 83, 85, 86, 87, 88, 89, 91, 92, 93, 94, 95, 96, 97],
      permitted (.tf ⟨.untraced, k, 0, 0⟩) = false := by decide
  exact undefined o.a h

end Sys2Proof.Machine
end

section
/-! Unconditional transfer of control (44_unconditional_transfer.md R340, R342 to R344): the transfer where C has a next address,
the two words 91 and 92 write, and the statement, read off what the three instructions answer. -/

namespace Sys2Proof.Machine
open Sys2Proof

/-- A transfer that is made leaves (C)+1 in C2 (R340), where C has a next address. -/
theorem branch_true_of_sameRegion {s : State} (h : sameRegion s.inst s.pc = true) (a : Nat) :
    s.branch true a = { s with pc := a, c2 := s.pc + 1 } := by
  rw [State.branch, if_pos rfl, succAddr_inside h]

/-- A transfer writes nothing that an address reads. -/
theorem load_branch (s : State) (taken : Bool) (a b : Nat) : (s.branch taken a).load b = s.load b :=
  load_congr (by simp) (by simp) (by simp) b

/-- The word 91 stores, character by character (R343). -/
theorem transferWord_eq_ofChars (m : Nat) :
    transferWord m = Word.ofChars (.d 9 :: .d 9 :: .d 0 :: [.d 0, .d 0, .d 0, .d 0] ++ dig 5 m) := rfl

/-- Five characters put into the M-digits leave the other seven positions (R344). -/
theorem splice_address_chars (w : Word) {l : List Chr} (h : l.length = 5) :
    (splice w 5 1 l).chars = w.chars.take 7 ++ l := by
  have hdrop : w.chars.drop 12 = [] := rfl
  rw [splice, hdrop, List.append_nil, Word.chars_ofChars]
  simp [h]

/-- Settles O48: each instruction writes its word, if it has one, and makes the transfer from there; the writes leave C and the
installation, so (C)+1 is that of the state before. -/
theorem transfers : Obligations.Transfers := by
  rintro o s ea z hea hpc rfl
  refine ⟨?_, fun hm hsame => ?_, fun hreg => ⟨_, splice_address_chars (s.reg o.a) (dig_length 5 s.pc), ?_⟩⟩
  · rw [← branch_true_of_sameRegion hpc]
    exact (execT_answers o s).eq_next hea rfl
  · have hw : writable s ea = true := (writable_of_same hsame).1
    refine ⟨_, (execTr_answers o s).eq_next hea hw, ?_, ?_, ?_, fun b => ?_⟩
    · simp [succAddr_inside hsame]
    · simp [succAddr_inside hpc]
    · simp
    · rw [load_branch, load_store s ea b _ hm hw, succAddr_inside hpc, transferWord_eq_ofChars]
  · have hstored : ∀ w, (s.setReg o.a w).branch true ea = { s.setReg o.a w with pc := ea, c2 := s.pc + 1 } :=
      fun w => branch_true_of_sameRegion (s := s.setReg o.a w) hpc ea
    rw [← hstored]
    exact (execTb_answers o s).eq_next hea hreg

end Sys2Proof.Machine
end

section
/-! The shifts (45_shift.md R360 to R366): what each of the three string operations of Machine/Shift.lean leaves in the words it
is applied to, and the number that a shifted string of digits spells. -/

namespace Sys2Proof.Machine
open Sys2Proof

/-! ### Strings moved by places -/

@[simp] theorem shiftRight_length (k : Nat) (l : List Chr) : (shiftRight k l).length = l.length := by
  simp only [shiftRight, List.length_append, zeros_length, List.length_take]
  omega

@[simp] theorem shiftLeft_length (k : Nat) (l : List Chr) : (shiftLeft k l).length = l.length := by
  simp only [shiftLeft, List.length_append, zeros_length, List.length_drop]
  omega

/-- A right shift by the part of the count that is within the width. -/
theorem shiftRight_eq_min {l : List Chr} {n : Nat} (h : l.length = n) (k : Nat) :
    shiftRight k l = zeros (min k n) ++ l.take (n - min k n) := by
  rw [shiftRight, h, show n - k = n - min k n by omega]

/-- A left shift by the part of the count that is within the width. -/
theorem shiftLeft_eq_min {l : List Chr} {n : Nat} (h : l.length = n) (k : Nat) :
    shiftLeft k l = l.drop (min k n) ++ zeros (min k n) := by
  subst h
  rcases Nat.le_total k l.length with hk | hk
  · rw [shiftLeft, Nat.min_eq_left hk]
  · rw [shiftLeft, Nat.min_eq_right hk, List.drop_length, List.drop_of_length_le hk]

/-- On more than one character the model's rotation is the library's. -/
theorem rotateLeft_eq_list_rotateLeft {l : List Chr} (h : 1 < l.length) (k : Nat) : rotateLeft k l = l.rotateLeft k := by
  rw [List.rotateLeft, if_neg (Nat.not_le.2 h), rotateLeft]

/-! ### The words shifted -/

/-- The characters below the sign that a right shift keeps. -/
theorem take_slice (w : Word) (k : Nat) : (slice w 11 1).take (11 - k) = slice w 11 (k + 1) := by
  rw [slice, slice, List.take_take]
  congr 1
  omega

/-- The characters below the sign that a left shift keeps. -/
theorem drop_slice (w : Word) {k : Nat} (h : k ≤ 11) : (slice w 11 1).drop k = slice w (11 - k) 1 := by
  have hstart : 12 - (11 - k) = 12 - 11 + k := by omega
  have hcount : 11 - k + 1 - 1 = 11 + 1 - 1 - k := by omega
  rw [slice, slice, List.drop_take, List.drop_drop, hstart, hcount]

/-- A shift of one word is made on the 11 characters below the sign, which stays (R361 (b)). -/
theorem slice_shiftWord {f : List Chr → List Chr} (hf : ∀ l, (f l).length = l.length) (a : Word) :
    slice (shiftWord f a).w 11 1 = f (slice a 11 1) :=
  slice_wordOf _ _ (hf _)

/-- The 22 characters below the two signs of a pair. -/
def pairDigits (a : Word × Word) : List Chr := slice a.1 11 1 ++ slice a.2 11 1

@[simp] theorem pairDigits_length (a : Word × Word) : (pairDigits a).length = 22 := by simp [pairDigits]

/-- Twenty-two characters written below two signs. -/
theorem pairDigits_wordOf (c e : Chr) {d : List Chr} (h : d.length = 22) :
    pairDigits (wordOf c (d.take 11), wordOf e (d.drop 11)) = d := by
  rw [pairDigits, slice_wordOf c _ (by simp [h]), slice_wordOf e _ (by simp [h]), List.take_append_drop]

/-- A shift of the pair is made on the 22 characters as one string (R364). -/
theorem pairDigits_shiftPair {f : List Chr → List Chr} (hf : ∀ l, (f l).length = l.length) (a : Word × Word) :
    pairDigits ((shiftPair f a).h, (shiftPair f a).l) = f (pairDigits a) :=
  pairDigits_wordOf a.1.c12 a.2.c12 (by rw [hf]; exact pairDigits_length a)

/-- The circular shift is made on all 24 characters as one string (R361 (c)). -/
theorem chars_rotatePair (k : Nat) (a : Word × Word) :
    (rotatePair k a).h.chars ++ (rotatePair k a).l.chars = (a.1.chars ++ a.2.chars).rotateLeft k := by
  have hlen : (rotateLeft k (a.1.chars ++ a.2.chars)).length = 24 := by
    simp [rotateLeft]
    omega
  rw [← rotateLeft_eq_list_rotateLeft (by simp), rotatePair, Word.chars_ofChars _ (by simp [hlen]),
    Word.chars_ofChars _ (by simp [hlen]), List.take_append_drop]

/-! ### What the five instructions answer -/

section
variable {o : Fields} {s : State} {ea : Nat}

/-- 52 (R362). -/
theorem exec_pr (hea : effM s o = .ok ea) (hreg : s.hasReg o.a = true) :
    exec (.pr o) s = .next (s.deposit1 o.a (shiftWord (shiftRight (countOf ea)) (s.reg o.a))) :=
  (onAcc_answers o s _).eq_next hea hreg

/-- 53 (R363). -/
theorem exec_pl (hea : effM s o = .ok ea) (hreg : s.hasReg o.a = true) :
    exec (.pl o) s = .next (s.deposit1 o.a (shiftWord (shiftLeft (countOf ea)) (s.reg o.a))) :=
  (onAcc_answers o s _).eq_next hea hreg

/-- 57 (R364). -/
theorem exec_ppr (hea : effM s o = .ok ea) (hpair : hasPair s o.a = true) :
    exec (.ppr o) s = .next (s.deposit2 o.a (shiftPair (shiftRight (countOf ea)) (s.reg o.a, s.reg (o.a + 1)))) :=
  (onAccPair_answers o s _).eq_next hea hpair

/-- 58 (R365). -/
theorem exec_ppl (hea : effM s o = .ok ea) (hpair : hasPair s o.a = true) :
    exec (.ppl o) s = .next (s.deposit2 o.a (shiftPair (shiftLeft (countOf ea)) (s.reg o.a, s.reg (o.a + 1)))) :=
  (onAccPair_answers o s _).eq_next hea hpair

/-- 59 (R366). -/
theorem exec_ppc (hea : effM s o = .ok ea) (hpair : hasPair s o.a = true) :
    exec (.ppc o) s = .next (s.deposit2 o.a (rotatePair (countOf ea) (s.reg o.a, s.reg (o.a + 1)))) :=
  (onAccPair_answers o s _).eq_next hea hpair

end

/-- Settles O49: each instruction moves one string of 11, 22 or 24 characters within its width; no contingency is raised, so the
deposit writes the shifted words and steps C. -/
theorem shifts : Obligations.Shifts := by
  refine ⟨?_, ?_, ?_⟩
  · rintro o s ea k a hea hreg rfl rfl
    have hlen : (slice (s.reg o.a) 11 1).length = 11 := by simp
    constructor
    · rw [exec_pr hea hreg, shiftWord, shiftRight_eq_min hlen, take_slice]
      rfl
    · rw [exec_pl hea hreg, shiftWord, shiftLeft_eq_min hlen, drop_slice _ (Nat.min_le_right _ _)]
      rfl
  · rintro o s ea k h l d hea hpair rfl rfl rfl rfl
    have hlen := pairDigits_length (s.reg o.a, s.reg (o.a + 1))
    constructor
    · exact ⟨_, _, exec_ppr hea hpair, rfl, rfl,
        (pairDigits_shiftPair (shiftRight_length _) _).trans (shiftRight_eq_min hlen _)⟩
    · exact ⟨_, _, exec_ppl hea hpair, rfl, rfl,
        (pairDigits_shiftPair (shiftLeft_length _) _).trans (shiftLeft_eq_min hlen _)⟩
  · rintro o s ea r hea hpair rfl
    exact ⟨_, _, exec_ppc hea hpair, chars_rotatePair _ _⟩

/-! ### The number a shifted string spells -/

@[simp] theorem zeros_all_isNum (n : Nat) : (zeros n).all isNum = true := by simp [zeros_eq_dig]

@[simp] theorem num_zeros (n : Nat) : num (zeros n) = 0 := by simp [zeros_eq_dig, num_dig]

/-- A numeric string is its leading and its trailing digits. -/
theorem num_take_drop {l : List Chr} (h : l.all isNum = true) (i : Nat) :
    num l = num (l.take i) * 10 ^ (l.length - i) + num (l.drop i) := by
  have hall := h
  rw [← List.take_append_drop i l, List.all_append, Bool.and_eq_true] at hall
  have hsum := num_append hall.1 hall.2
  rwa [List.take_append_drop, List.length_drop] at hsum

theorem num_drop_lt (l : List Chr) (i : Nat) : num (l.drop i) < 10 ^ (l.length - i) := by
  simpa using num_lt (l.drop i)

/-- The leading digits spell the quotient by the weight of the others. -/
theorem num_take {l : List Chr} (h : l.all isNum = true) (i : Nat) :
    num (l.take i) = num l / 10 ^ (l.length - i) := by
  rw [num_take_drop h i, Nat.add_comm, Nat.add_mul_div_right _ _ (by positivity), Nat.div_eq_of_lt (num_drop_lt l i),
    Nat.zero_add]

/-- The trailing digits spell the remainder. -/
theorem num_drop {l : List Chr} (h : l.all isNum = true) (i : Nat) :
    num (l.drop i) = num l % 10 ^ (l.length - i) := by
  rw [num_take_drop h i, Nat.mul_add_mod_self_right, Nat.mod_eq_of_lt (num_drop_lt l i)]

theorem all_isNum_take {l : List Chr} (h : l.all isNum = true) (i : Nat) : (l.take i).all isNum = true :=
  List.all_eq_true.2 fun c hc => List.all_eq_true.1 h c (List.mem_of_mem_take hc)

theorem all_isNum_drop {l : List Chr} (h : l.all isNum = true) (i : Nat) : (l.drop i).all isNum = true :=
  List.all_eq_true.2 fun c hc => List.all_eq_true.1 h c (List.mem_of_mem_drop hc)

theorem all_isNum_shiftRight {l : List Chr} (h : l.all isNum = true) (k : Nat) : (shiftRight k l).all isNum = true := by
  simp only [shiftRight, List.all_append, zeros_all_isNum, all_isNum_take h, Bool.and_true]

theorem all_isNum_shiftLeft {l : List Chr} (h : l.all isNum = true) (k : Nat) : (shiftLeft k l).all isNum = true := by
  simp only [shiftLeft, List.all_append, zeros_all_isNum, all_isNum_drop h, Bool.and_true]

/-- A right shift divides (R362, R364); a count above the width leaves nothing of a number that is below its weight. -/
theorem num_shiftRight {l : List Chr} (h : l.all isNum = true) (k : Nat) : num (shiftRight k l) = num l / 10 ^ k := by
  rw [shiftRight, num_append (zeros_all_isNum _) (all_isNum_take h _), num_zeros, Nat.zero_mul, Nat.zero_add, num_take h]
  rcases Nat.le_total k l.length with hk | hk
  · rw [Nat.sub_sub_self hk]
  · have hlt : num l < 10 ^ k := (num_lt l).trans_le (Nat.pow_le_pow_right (by decide) hk)
    rw [Nat.sub_eq_zero_of_le hk, Nat.sub_zero, Nat.div_eq_of_lt (num_lt l), Nat.div_eq_of_lt hlt]

/-- A left shift multiplies within the width (R363, R365); a count above the width moves every digit beyond the top. -/
theorem num_shiftLeft {l : List Chr} (h : l.all isNum = true) (k : Nat) :
    num (shiftLeft k l) = num l * 10 ^ k % 10 ^ l.length := by
  rw [shiftLeft, num_append (all_isNum_drop h _) (zeros_all_isNum _), num_zeros, Nat.add_zero, zeros_length, num_drop h]
  rcases Nat.le_total k l.length with hk | hk
  · rw [Nat.min_eq_left hk, ← Nat.mul_mod_mul_right, ← pow_add, Nat.sub_add_cancel hk]
  · have hdvd : 10 ^ l.length ∣ num l * 10 ^ k := Dvd.dvd.mul_left (pow_dvd_pow 10 hk) _
    rw [Nat.sub_eq_zero_of_le hk, pow_zero, Nat.mod_one, Nat.zero_mul, Nat.mod_eq_zero_of_dvd hdvd]

/-! ### The magnitudes shifted -/

/-- The magnitude of a pair of numeric words is the number of its 22 characters. -/
theorem dfxmag_eq_num {u w : Word} (h : (pairDigits (u, w)).all isNum = true) : dfxmag u w = num (pairDigits (u, w)) := by
  rw [pairDigits, List.all_append, Bool.and_eq_true] at h
  rw [pairDigits, num_append h.1 h.2, slice_length w 11 1 (by decide) (by decide), dfxmag, fxmag, fxmag]

/-- The magnitude of a shifted pair, where the shifted string is still numeric. -/
theorem dfxmag_shiftPair {f : List Chr → List Chr} (hf : ∀ l, (f l).length = l.length) (a : Word × Word)
    (hnum : (f (pairDigits a)).all isNum = true) :
    dfxmag (shiftPair f a).h (shiftPair f a).l = num (f (pairDigits a)) := by
  rw [← pairDigits_shiftPair hf] at hnum ⊢
  exact dfxmag_eq_num hnum

/-- The registers of a deposit of two words hold them. -/
theorem reg_deposit2 {s : State} {r : Nat} (h : hasPair s r = true) (v : Result2) :
    (s.deposit2 r v).reg r = v.h ∧ (s.deposit2 r v).reg (r + 1) = v.l := by
  obtain ⟨hr, hr'⟩ := Bool.and_eq_true_iff.1 h
  have hreg : ∀ q, (s.deposit2 r v).reg q = (s.setPair r v.h v.l).reg q := reg_congr (by simp [State.deposit2])
  simp [hreg, reg_setPair _ _ _ _ _ hr hr']

/-- Settles O51: the number of the shifted string, read back from the registers that O49's words are written to. -/
theorem shiftArithmetic : Obligations.ShiftArithmetic := by
  rintro o s ea k hea rfl
  refine ⟨fun hreg hnum => ⟨⟨_, exec_pr hea hreg, ?_⟩, _, exec_pl hea hreg, ?_⟩, fun hpair hhigh hlow => ?_⟩
  · rw [reg_deposit1 hreg, fxmag, slice_shiftWord (shiftRight_length _), num_shiftRight hnum]
    rfl
  · rw [reg_deposit1 hreg, fxmag, slice_shiftWord (shiftLeft_length _), num_shiftLeft hnum,
      slice_length _ 11 1 (by decide) (by decide)]
    rfl
  · have hnum : (pairDigits (s.reg o.a, s.reg (o.a + 1))).all isNum = true := by
      rw [pairDigits, List.all_append, hhigh, hlow, Bool.and_self]
    rw [dfxmag_eq_num hnum]
    refine ⟨⟨_, exec_ppr hea hpair, ?_⟩, _, exec_ppl hea hpair, ?_⟩
    · rw [(reg_deposit2 hpair _).1, (reg_deposit2 hpair _).2,
        dfxmag_shiftPair (shiftRight_length _) _ (all_isNum_shiftRight hnum _), num_shiftRight hnum, countOf]
    · rw [(reg_deposit2 hpair _).1, (reg_deposit2 hpair _).2,
        dfxmag_shiftPair (shiftLeft_length _) _ (all_isNum_shiftLeft hnum _), num_shiftLeft hnum, pairDigits_length, countOf]

end Sys2Proof.Machine
end

section
/-! The extracts under a pattern (46_extract.md R380 to R382): the masked merge as a string of characters, position by position,
and the statement about 65 and 66. -/

namespace Sys2Proof.Machine
open Sys2Proof

/-- Below the sign a character is taken from `x` exactly under a ONE (R380, R381). -/
theorem pick_selects (c x a : Chr) : pick (selects c) x a = if c = .d 1 then x else a := by
  simp only [pick, selects, decide_eq_true_eq]

/-- In the sign position a minus sign selects as well (R380, R381). -/
theorem pick_selectsSign (c x a : Chr) : pick (selectsSign c) x a = if c = .d 1 ∨ c = .minus then x else a := by
  simp only [pick, selectsSign, decide_eq_true_eq]

/-- The merged word from left to right: the sign position is the character 0, the one place where a minus sign counts. -/
theorem chars_extract (m x a : Word) :
    (extract m x a).chars = (List.range 12).map fun j =>
      if m.chars[j]? = some (.d 1) ∨ (j = 0 ∧ m.c12 = .minus) then x.chars.getD j .minus else a.chars.getD j .minus := by
  refine List.ext_getElem (by simp) fun j hj _ => ?_
  rw [List.getElem_map, List.getElem_range]
  cases j with
  | zero => simp [Word.chars, extract, pick_selectsSign]
  | succ j =>
    have hbelow : j < 11 := Nat.lt_of_succ_lt_succ hj
    simp only [Nat.succ_ne_zero, false_and, or_false]
    interval_cases j <;> simp [Word.chars, extract, pick_selects]

/-- Settles O52: both instructions are the one merge, from the register before A and from the one after it. -/
theorem extractPattern : Obligations.ExtractPattern := by
  rintro o s ea m a r hea hread hreg rfl rfl rfl
  have merged : ∀ src, s.hasReg src = true →
      outcome (extractFrom src o s) = .next ((s.setReg o.a (extract (s.load ea) (s.reg src) (s.reg o.a))).next) :=
    fun src hsrc => (extractFrom_answers o s src).eq_next hea (by rw [hread, hreg, hsrc]; rfl)
  exact ⟨fun hsrc => ⟨_, merged _ hsrc, chars_extract _ _ _⟩, fun hsrc => ⟨_, merged _ hsrc, chars_extract _ _ _⟩⟩

end Sys2Proof.Machine
end

section
/-! Conversion between fixed and floating point (47_conversion.md R390 to R397): the magnitude 50 and 55 leave, the places 51 and
56 shift out, and the three statements, each read off what the instructions answer. -/

namespace Sys2Proof.Machine
open Sys2Proof

/-! ### Floating to fixed point (R392, R395) -/

/-- With the exponent at most the scale factor the significand moves right by the difference. -/
theorem fixedMagnitude_of_fits {sf e d : Nat} (h : e + d = sf) (x width : Nat) :
    fixedMagnitude sf e x width = x * 100 / 10 ^ d := by
  subst h
  rw [fixedMagnitude, if_pos (Nat.le_add_right e d), Nat.add_sub_cancel_left]

/-- Settles O53: one word and two words, the magnitude in each the one moved right. -/
theorem floatToFixed : Obligations.FloatToFixed := by
  rintro o s ea sf d h l hea hreg rfl rfl rfl hfits
  refine ⟨?_, fun hreg' => ?_⟩
  · have hexec := (onAcc_answers o s fun sf a _ => flToFx sf a).eq_next hea hreg
    rwa [flToFx, countOf, fixedMagnitude_of_fits hfits, deposit1_quiet] at hexec
  · have hexec := (onAccPair_answers o s fun sf a _ => flToFx2 sf a).eq_next hea (hasPair_of_hasReg hreg hreg')
    rwa [flToFx2, countOf, fixedMagnitude_of_fits hfits, deposit2_quiet] at hexec

/-! ### Fixed to floating point (R393, R394, R396) -/

/-- The contingencies of a conversion in the words of the statements. -/
theorem convertedFlags_eq (sf width p : Nat) :
    convertedFlags sf width p = (if p = 0 then [40] else []) ++ rangeFlags (convertedExp sf width p) := rfl

/-- A magnitude is not zero when some shift normalizes it, and that shift is the number of zeros shifted out. -/
theorem shiftedOut_of_normalized {width p z : Nat} (hlow : 10 ^ (width - 1) ≤ p * 10 ^ z) (hhigh : p * 10 ^ z < 10 ^ width) :
    p ≠ 0 ∧ shiftedOut width p = z := by
  have hp : p ≠ 0 := by
    rintro rfl
    exact absurd hlow (by simp)
  exact ⟨hp, by rw [shiftedOut, if_neg hp, leadingZeros_eq (Nat.pos_of_ne_zero hp) hlow hhigh]⟩

/-- Every place of a zero is shifted out (R394, D50), and its significand is zero. -/
theorem converted_zero (sf width : Nat) :
    convertedExp sf width 0 = (sf : Int) - width ∧ convertedSig width 0 = 0 := by
  simp [convertedExp, convertedSig, shiftedOut]

/-- `e` and `f` are the exponent and the significand of the converted magnitude `p`, and `zero` holds the
contingency of a zero, where `p` is one (R393, R394). -/
structure Converts (sf width p : Nat) (e : Int) (f : Nat) (zero : List Nat) : Prop where
  exponent : convertedExp sf width p = e
  significand : convertedSig width p = f
  flags : convertedFlags sf width p = zero ++ rangeFlags e

theorem Converts.of_normalized {sf width p z x : Nat} {e : Int} (he : e + z = sf) (hx : x = p * 10 ^ z)
    (hlow : 10 ^ (width - 1) ≤ x) (hhigh : x < 10 ^ width) : Converts sf width p e (x / 100) [] := by
  subst hx
  obtain ⟨hp, hz⟩ := shiftedOut_of_normalized hlow hhigh
  have hexp : convertedExp sf width p = e := by rw [convertedExp, hz]; omega
  exact ⟨hexp, by rw [convertedSig, hz], by rw [convertedFlags_eq, if_neg hp, hexp]⟩

theorem Converts.of_zero {sf width p : Nat} (hp : p = 0) : Converts sf width p ((sf : Int) - width) 0 [40] := by
  subst hp
  obtain ⟨hexp, hsig⟩ := converted_zero sf width
  exact ⟨hexp, hsig, by rw [convertedFlags_eq, if_pos rfl, hexp]⟩

section
variable {o : Fields} {s : State} {ea : Nat} {e : Int} {f : Nat} {zero : List Nat}

theorem lt_of_mem_convertedFlags (ea width p : Nat) : ∀ k ∈ convertedFlags (countOf ea) width p, k < 100 := by
  have few : ∀ k ∈ [40, 43], k < 100 := by decide
  exact fun k hk => few k (convertedFlags_subset (countOf_lt ea) width p hk)

/-- 51 stores the converted number under the sign of (A) (R391, R393). -/
theorem resultStored_c (hea : effM s o = .ok ea) (hreg : s.hasReg o.a = true)
    (h : Converts (countOf ea) 11 (fxmag (s.reg o.a)) e f zero) :
    resultStored (.c o) s (fun y => s.setReg o.a (wordOf (s.reg o.a).c12 (y ++ dig 9 f))) e (zero ++ rangeFlags e) := by
  obtain ⟨rfl, rfl, hflags⟩ := h
  rw [← hflags]
  exact resultStored_of_exec (expField_chars s.tick _) (onlyRegisters_setReg _ _ _) (lt_of_mem_convertedFlags ea 11 _)
    ((onAcc_answers o s fxToFl).eq_next hea hreg)

/-- 56 stores it in two words, each sign in its own (R391, R396, D50). -/
theorem resultStored_cc (hea : effM s o = .ok ea) (hpair : hasPair s o.a = true)
    (h : Converts (countOf ea) 22 (dfxmag (s.reg o.a) (s.reg (o.a + 1))) e f zero) :
    resultStored (.cc o) s
      (fun y => s.setPair o.a (wordOf (s.reg o.a).c12 (y ++ dig 9 (f / 10 ^ 11))) (fxWord (s.reg (o.a + 1)).c12 (f % 10 ^ 11)))
      e (zero ++ rangeFlags e) := by
  obtain ⟨rfl, rfl, hflags⟩ := h
  rw [← hflags]
  exact resultStored_of_exec (expField_chars s.tick _) (onlyRegisters_setPair _ _ _ _) (lt_of_mem_convertedFlags ea 22 _)
    ((onAccPair_answers o s fxToFl2).eq_next hea hpair)

end

/-- Settles O54: the shift that normalizes the magnitude is the one the model makes. -/
theorem fixedToFloat : Obligations.FixedToFloat := by
  rintro o s ea sf z x e h l hea hreg rfl rfl rfl he
  exact ⟨fun hx hlow hhigh => resultStored_c hea hreg (.of_normalized he hx hlow hhigh),
    fun hreg' hx hlow hhigh => resultStored_cc hea (hasPair_of_hasReg hreg hreg') (.of_normalized he hx hlow hhigh)⟩

/-- Settles O55: a zero shifts out all its 11 or 22 places. -/
theorem convertZero : Obligations.ConvertZero := by
  rintro o s ea sf h l hea hreg rfl rfl rfl
  refine ⟨fun hzero => resultStored_c hea hreg (.of_zero hzero), fun hreg' hzero => ?_⟩
  have hstored := resultStored_cc hea (hasPair_of_hasReg hreg hreg') (.of_zero hzero)
  rwa [Nat.zero_div, Nat.zero_mod] at hstored

end Sys2Proof.Machine
end

section
/-! Index-register modification (48_index_register.md R420 to R429): the positions of an index word that a step and a count write,
what the six instructions answer, and the statement. -/

namespace Sys2Proof.Machine
open Sys2Proof

/-! ### The positions of an index word (30_encoding.md R104) -/

/-- Three characters put into the cycle count leave the other nine positions. -/
theorem splice_count_chars (w : Word) {l : List Chr} (h : l.length = 3) :
    (splice w 12 10 l).chars = l ++ w.chars.drop 3 := by
  have htake : w.chars.take 0 = [] := rfl
  rw [splice, htake, List.nil_append, Word.chars_ofChars]
  simp [h]

/-- The cycle count is the first three characters of a word. -/
theorem slice_count (w : Word) : slice w 12 10 = w.chars.take 3 := rfl

/-- The five positions of the address modifier stepped, the other seven as they were (R428, R429). -/
theorem stepIndex_chars {sub : Bool} {w : Word} {y : Nat} (h : steppedDelta sub w = some y) :
    (stepIndex sub w).chars = w.chars.take 7 ++ dig 5 y := by
  simp only [stepIndex, h]
  exact splice_address_chars w (dig_length 5 y)

/-- A step never writes the cycle count, whether Δ keeps its five digits or not (R423, D27). -/
theorem slice_count_stepIndex (sub : Bool) (w : Word) : slice (stepIndex sub w) 12 10 = slice w 12 10 := by
  unfold stepIndex
  split <;> rfl

/-- The reduced count stands in the cycle count, whatever became of Δ (R422, D27). -/
theorem slice_count_countIndex (sub : Bool) (w : Word) : slice (countIndex sub w) 12 10 = dig 3 (reducedCount w) := by
  rw [slice_count, countIndex, splice_count_chars _ (dig_length 3 _)]
  exact List.take_left' (dig_length 3 _)

/-- The count reduced and the address modifier stepped, DDDD between them as it was (R424, R425). -/
theorem countIndex_chars {sub : Bool} {w : Word} {y : Nat} (h : steppedDelta sub w = some y) :
    (countIndex sub w).chars = dig 3 (reducedCount w) ++ slice w 9 6 ++ dig 5 y := by
  rw [countIndex, splice_count_chars _ (dig_length 3 _), stepIndex_chars h, List.append_assoc]
  rfl

/-! ### The numbers of an index word -/

/-- The count one less, 000 going to 999 (R422). -/
theorem reducedCount_of_digits {w : Word} {n : Nat} (h : slice w 12 10 = dig 3 n) (hn : n < 1000) :
    reducedCount w = if n = 0 then 999 else n - 1 := by
  have hcount : ixN w = n := by rw [ixN, h, num_dig_of_lt hn]
  rw [reducedCount, hcount]
  split <;> omega

section
variable {w : Word} {d v : Nat} (hd : slice w 9 6 = dig 4 d) (hd4 : d < 10000) (hv : slice w 5 1 = dig 5 v)
  (hv5 : v < 100000)
include hd hd4 hv hv5

/-- The address modifier stepped up or down by DDDD, where it keeps five digits (R423). -/
theorem steppedDelta_of_digits :
    (v + d ≤ 99999 → steppedDelta false w = some (v + d)) ∧ (d ≤ v → steppedDelta true w = some (v - d)) := by
  have hD : ixD w = d := by rw [ixD, hd, num_dig_of_lt hd4]
  have hDelta : ixDelta w = v := by rw [ixDelta, hv, num_dig_of_lt hv5]
  refine ⟨fun hup => ?_, fun hdown => ?_⟩
  · rw [steppedDelta, if_neg (by decide), hD, hDelta, if_pos hup]
  · rw [steppedDelta, if_pos rfl, hD, hDelta, if_pos hdown]

end

/-! ### What the six instructions answer -/

section
variable {o : Fields} {s : State} {ea n : Nat} (hea : effM s o = .ok ea) (hreg : s.hasReg o.a = true)
include hea hreg

/-- 80 to 83 with the new count `n`: 80 and 82 step up, 81 and 83 down; 80 and 81 transfer while the count is not zero, 82 and 83
when it is (R424 to R427). -/
theorem exec_indexBranch (hn : reducedCount (s.reg o.a) = n) :
    (∀ x ∈ [(Instr.bit o, false), (.bdt o, true)],
      exec x.1 s = .next ((s.setReg o.a (countIndex x.2 (s.reg o.a))).branch (decide (n ≠ 0)) ea)) ∧
    ∀ x ∈ [(Instr.bic o, false), (.bdc o, true)],
      exec x.1 s = .next ((s.setReg o.a (countIndex x.2 (s.reg o.a))).branch (decide (n = 0)) ea) := by
  subst hn
  refine ⟨fun x hx => ?_, fun x hx => ?_⟩ <;> rcases List.mem_pair.1 hx with rfl | rfl <;>
    exact (indexBranch_answers o s _ _).eq_next hea hreg

/-- 85 steps up, 86 down (R428, R429). -/
theorem exec_indexStep : ∀ x ∈ [(Instr.bi o, false), (.bd o, true)],
    exec x.1 s = .next (s.setReg o.a (stepIndex x.2 (s.reg o.a))).next := by
  intro x hx
  rcases List.mem_pair.1 hx with rfl | rfl <;> exact (indexStep_answers o s _).eq_next hea hreg

end

/-- Settles O56: where Δ keeps five digits the word is spelled position by position; count and transfer do not depend on that. -/
theorem indexRegisters : Obligations.IndexRegisters := by
  intro o s ea d v hea hreg hd hd4 hv hv5
  obtain ⟨hup, hdown⟩ := steppedDelta_of_digits hd hd4 hv hv5
  have hstep := exec_indexStep hea hreg
  refine ⟨fun n n' w hn hn3 hn' hw => ?_, fun w hw => ?_, fun i hi => ?_⟩
  · have hcount := (reducedCount_of_digits hn hn3).trans hn'.symm
    obtain ⟨hwhile, hwhen⟩ := exec_indexBranch hea hreg hcount
    have hword : ∀ {sub y}, steppedDelta sub (s.reg o.a) = some y → w y = countIndex sub (s.reg o.a) := fun h =>
      Word.ext_chars (by rw [countIndex_chars h, hw, hcount, hd, Word.chars_ofChars _ (by simp)])
    have hslice : ∀ sub, slice (countIndex sub (s.reg o.a)) 12 10 = dig 3 n' := fun sub => by
      rw [slice_count_countIndex, hcount]
    refine ⟨fun hle => ?_, fun hle => ?_, fun i hi => ?_, fun i hi => ?_⟩
    · rw [hword (hup hle)]
      exact ⟨hwhile (.bit o, false) (by simp), hwhen (.bic o, false) (by simp)⟩
    · rw [hword (hdown hle)]
      exact ⟨hwhile (.bdt o, true) (by simp), hwhen (.bdc o, true) (by simp)⟩
    · rcases List.mem_pair.1 hi with rfl | rfl
      · exact ⟨_, hslice false, hwhile (.bit o, false) (by simp)⟩
      · exact ⟨_, hslice true, hwhile (.bdt o, true) (by simp)⟩
    · rcases List.mem_pair.1 hi with rfl | rfl
      · exact ⟨_, hslice false, hwhen (.bic o, false) (by simp)⟩
      · exact ⟨_, hslice true, hwhen (.bdc o, true) (by simp)⟩
  · have hword : ∀ {sub y}, steppedDelta sub (s.reg o.a) = some y → w y = stepIndex sub (s.reg o.a) := fun h =>
      Word.ext_chars (by rw [stepIndex_chars h, hw, Word.chars_ofChars _ (by simp)])
    refine ⟨fun hle => ?_, fun hle => ?_⟩
    · rw [hword (hup hle)]
      exact hstep (.bi o, false) (by simp)
    · rw [hword (hdown hle)]
      exact hstep (.bd o, true) (by simp)
  · rcases List.mem_pair.1 hi with rfl | rfl
    · exact ⟨_, slice_count_stepIndex false _, hstep (.bi o, false) (by simp)⟩
    · exact ⟨_, slice_count_stepIndex true _, hstep (.bd o, true) (by simp)⟩

end Sys2Proof.Machine
end

section
/-! Flip-flops (60_exceptions.md R471 to R473, R480, R481; 49_display_misc.md R446, R447): which of them an instruction
changes, and that 96 alone resets one. -/

namespace Sys2Proof.Machine
open Sys2Proof

/-! ### 96 and 97 -/

theorem mem_digitFlags {k : Nat} : k ∈ digitFlags ↔ 71 ≤ k ∧ k ≤ 82 := by
  rw [digitFlags, List.mem_range'_1]
  omega

/-- The flip-flops that 96 may reset are no masters and none of 71 to 82 (R446). -/
theorem resettable_range {o : Fields} (h : permitted (.rf o) = true) : o.a < 98 ∧ o.a ∉ digitFlags := by
  have resettable : o.a ≤ 9 ∨ o.a = 11 ∨ o.a = 15 ∨ (20 ≤ o.a ∧ o.a ≤ 34) ∨ (38 ≤ o.a ∧ o.a ≤ 70) ∨ o.a = 84 ∨
    o.a = 90 := of_decide_eq_true h
  rw [mem_digitFlags]
  omega

/-- Every flip-flop but the masters after one is reset: that one is reset, and 71 to 82 with it when none of the fourteen is then
set (10_state.md R36). -/
theorem flag_resetFlag (s : State) {k j : Nat} (hk : k < 100) (h98 : j ≠ 98) (h99 : j ≠ 99) :
    (s.resetFlag k).flag j = ((if j = k then false else s.flag j) &&
      (oddEvenFlags.any (s.putFlag k false).flag || !decide (j ∈ digitFlags))) := by
  rw [State.resetFlag, flag_refreshMasters, if_neg h99, if_neg h98, flag_followDigitFlags, flag_putFlag _ _ _ _ hk]

/-- A flip-flop that is not the one reset, no master and none of 71 to 82. -/
theorem flag_resetFlag_other (s : State) {k j : Nat} (hk : k < 100) (hj : j ≠ k) (hdigit : j ∉ digitFlags) (h98 : j ≠ 98)
    (h99 : j ≠ 99) : (s.resetFlag k).flag j = s.flag j := by
  simp [flag_resetFlag s hk h98 h99, hj, hdigit]

/-- While one of the fourteen stays set, 71 to 82 stay as they were (R36). -/
theorem flag_resetFlag_digit (s : State) {k j : Nat} (hk : k < 100) (hodd : ∃ i ∈ oddEvenFlags, (s.resetFlag k).flag i = true)
    (hj : j ∈ digitFlags) (hjk : j ≠ k) : (s.resetFlag k).flag j = s.flag j := by
  have unmastered : ∀ i ∈ oddEvenFlags ++ digitFlags, i ≠ 98 ∧ i ≠ 99 := by decide
  obtain ⟨i, hi, hset⟩ := hodd
  obtain ⟨hi98, hi99⟩ := unmastered i (List.mem_append_left _ hi)
  obtain ⟨hj98, hj99⟩ := unmastered j (List.mem_append_right _ hj)
  have hstays : oddEvenFlags.any (s.putFlag k false).flag = true := by
    rw [flag_resetFlag s hk hi98 hi99, ← flag_putFlag _ _ _ _ hk] at hset
    exact List.any_eq_true.2 ⟨i, hi, (Bool.and_eq_true_iff.1 hset).1⟩
  rw [flag_resetFlag s hk hj98 hj99, hstays, if_neg hjk, Bool.true_or, Bool.and_true]

/-- 97 leaves every flip-flop but the one it sets. -/
theorem flag_setFlag {o : Fields} (h : permitted (.sf o) = true) (s : State) (j : Nat) :
    (s.putFlag o.a true).flag j = (s.flag j || decide (j = o.a)) := by
  rw [flag_putFlag _ _ _ _ (not_watched_of_settable h).1]
  by_cases hj : j = o.a <;> simp [hj]

/-! ### The other instructions -/

/-- Every flip-flop after an instruction that raises within `l`: those raised and FF 99 are set with them, none is reset. -/
theorem RaisesWithin.flag_iff {l : List Nat} {s t : State} (h : RaisesWithin l s t) (hl : l ⊆ contingencyFlags) :
    ∃ ks, ks ⊆ l ∧ ∀ j, t.flag j = true ↔ j ∈ ks ∨ (ks ≠ [] ∧ j = 99) ∨ s.flag j = true := by
  obtain ⟨ks, hks, hff⟩ := h
  refine ⟨ks, hks, fun j => ?_⟩
  rw [flag_congr hff]
  exact flag_raise_iff s (kind := .contingency) (List.Subset.trans hks hl) j

/-- The flip-flops of the other instructions' contingencies, with FF 99 where there is one (R471, R480). -/
theorem flagsWritten_eq {i : Instr} (hrf : ∀ o, i ≠ .rf o) (hsf : ∀ o, i ≠ .sf o) :
    flagsWritten i = if raisable i = [] then [] else 99 :: raisable i := by
  unfold flagsWritten
  split
  · next o => exact absurd rfl (hrf o)
  · next o => exact absurd rfl (hsf o)
  · rfl

/-- Settles O13: 96 and 97 by what they do to each flip-flop, the others by what they raise. -/
theorem frameFlags : Obligations.FrameFlags := by
  intro i s t h k hk
  by_cases hrf : ∃ o, i = .rf o
  · obtain ⟨o, rfl⟩ := hrf
    obtain ⟨ea, -, hperm, rfl⟩ := (execRf_answers o s t).1 h
    simp only [flagsWritten, List.mem_cons, not_or] at hk
    obtain ⟨hka, h98, h99, hdigit⟩ := hk
    obtain ⟨hlt, -⟩ := resettable_range hperm
    exact (flag_congr (State.next_ff _) k).trans (flag_resetFlag_other s (by omega) hka hdigit h98 h99)
  by_cases hsf : ∃ o, i = .sf o
  · obtain ⟨o, rfl⟩ := hsf
    obtain ⟨ea, -, hperm, rfl⟩ := (execSf_answers o s t).1 h
    have hka : k ≠ o.a := by simpa [flagsWritten] using hk
    refine (flag_congr (State.next_ff _) k).trans ?_
    simp [flag_setFlag hperm, hka]
  have hrf := not_exists.1 hrf
  have hsf := not_exists.1 hsf
  obtain ⟨ks, hks, hflag⟩ := (exec_raises h hrf hsf).flag_iff (raisable_subset i)
  rw [flagsWritten_eq hrf hsf] at hk
  have hfree : k ∉ ks ∧ (ks ≠ [] → k ≠ 99) := by
    split at hk
    · next hnone =>
      have hempty : ks = [] := List.subset_nil.1 (hnone ▸ hks)
      simp [hempty]
    · obtain ⟨h99, hraise⟩ := not_or.1 (mt List.mem_cons.2 hk)
      exact ⟨fun hmem => hraise (hks hmem), fun _ => h99⟩
  rw [Bool.eq_iff_iff, hflag]
  tauto

/-- Settles O14: raising sets flip-flops, and so does 97. -/
theorem onlyResetClears : Obligations.OnlyResetClears := by
  intro i s t k h hset hclear
  by_contra hno
  have hrf := not_exists.1 hno
  suffices hkept : t.flag k = true by simp [hkept] at hclear
  by_cases hsf : ∃ o, i = .sf o
  · obtain ⟨o, rfl⟩ := hsf
    obtain ⟨ea, -, hperm, rfl⟩ := (execSf_answers o s t).1 h
    refine (flag_congr (State.next_ff _) k).trans ?_
    rw [flag_setFlag hperm, hset, Bool.true_or]
  · obtain ⟨ks, -, hflag⟩ := (exec_raises h hrf (not_exists.1 hsf)).flag_iff (raisable_subset i)
    exact (hflag k).2 (.inr (.inr hset))

/-- A flip-flop that 96 may not reset (10_state.md R37, D36). -/
theorem execRf_refused {o : Fields} {s : State} {ea : Nat} (hea : effM s o = .ok ea) (h : permitted (.rf o) = false) :
    execRf o s = .refused (.flipFlopOperation o.a) := by
  rw [execRf, hea, res_ok_bind, marksOf_eq, if_neg (by simp [h]), outcome_refused]

/-- A flip-flop that 97 may not set (R37, D36). -/
theorem execSf_refused {o : Fields} {s : State} {ea : Nat} (hea : effM s o = .ok ea) (h : permitted (.sf o) = false) :
    execSf o s = .refused (.flipFlopOperation o.a) := by
  rw [execSf, hea, res_ok_bind, marksOf_eq, if_neg (by simp [h]), outcome_refused]

/-- The masters after 96, whatever they were before (60_exceptions.md R480, D16). -/
theorem masters_resetFlag (s : State) (k : Nat) (kind : TrapKind) :
    (s.resetFlag k).flag (masterOf kind) = (groupOf kind).any (s.resetFlag k).flag := by
  rw [Bool.eq_iff_iff, (goodFlags_resetFlag s k).masters, List.any_eq_true]

/-- Settles O59: the one flip-flop, then 71 to 82, then the masters. -/
theorem resetFlipFlop : Obligations.ResetFlipFlop := by
  intro o s ea hea
  refine ⟨fun hperm => ?_, execRf_refused hea⟩
  obtain ⟨hlt, hdigit⟩ := resettable_range hperm
  have hlt100 : o.a < 100 := by omega
  refine ⟨(s.resetFlag o.a).next, (execRf_answers o s).eq_next hea hperm, ⟨by simp, by simp⟩, by simp, by simp, ?_⟩
  have hnext : (s.resetFlag o.a).next.flag = (s.resetFlag o.a).flag := funext (flag_congr (State.next_ff _))
  simp only [hnext]
  refine ⟨?_, fun k hka hkd h98 h99 => flag_resetFlag_other s hlt100 hka hkd h98 h99, fun hnone k hk => ?_,
    fun hsome k hk => flag_resetFlag_digit s hlt100 hsome hk (ne_of_mem_of_not_mem hk hdigit),
    masters_resetFlag s o.a .error, masters_resetFlag s o.a .contingency⟩
  · rw [flag_resetFlag s hlt100 (by omega) (by omega), if_pos rfl, Bool.false_and]
  · by_contra hset
    obtain ⟨j, hj, hodd⟩ := (goodFlags_resetFlag s o.a).digits k hk (eq_true_of_ne_false hset)
    exact absurd ((hnone j hj).symm.trans hodd) (by decide)

/-- Settles O60: the one flip-flop set. -/
theorem setFlipFlop : Obligations.SetFlipFlop := by
  intro o s ea hea
  refine ⟨fun hperm => ⟨_, (execSf_answers o s).eq_next hea hperm, ⟨rfl, rfl⟩, rfl, rfl, fun k => ?_⟩,
    execSf_refused hea⟩
  exact (flag_congr (State.next_ff _) k).trans (flag_setFlag hperm s k)

end Sys2Proof.Machine
end

section
/-! The outcome of a contingency (60_exceptions.md R471 to R473, R480, R481): an instruction raises last, after writes that touch
neither the flip-flops nor a pending event, so what it raises is in its flip-flops, in FF 99 and in the outcome alike. -/

namespace Sys2Proof.Machine
open Sys2Proof

/-- `t` is left by raising contingencies among `l`, none perhaps, after writes that touch no flip-flop and no pending event. -/
def RaisesLast (l : List Nat) (s t : State) : Prop :=
  ∃ (u : State) (ks : List Nat), u.ff = s.ff ∧ u.trap = s.trap ∧ ks ⊆ l ∧ t = u.raiseContingency ks

section
variable {l : List Nat} {s t u : State}

theorem RaisesLast.of_quiet (hff : t.ff = s.ff) (htrap : t.trap = s.trap) : RaisesLast l s t :=
  ⟨t, [], hff, htrap, List.nil_subset _, rfl⟩

theorem RaisesLast.of_raise {ks : List Nat} (hff : u.ff = s.ff) (htrap : u.trap = s.trap) (hks : ks ⊆ l) :
    RaisesLast l s (u.raiseContingency ks) := ⟨u, ks, hff, htrap, hks, rfl⟩

theorem RaisesLast.of_deposit1 {r : Nat} {v : Result1} (hv : v.raised ⊆ l) : RaisesLast l s (s.deposit1 r v) :=
  .of_raise rfl rfl hv

theorem RaisesLast.of_deposit2 {r : Nat} {v : Result2} (hv : v.raised ⊆ l) : RaisesLast l s (s.deposit2 r v) :=
  .of_raise rfl rfl hv

/-- A transfer made or not, after writes that are no flip-flop's. -/
theorem RaisesLast.of_branch {taken : Bool} {ea : Nat} (hff : u.ff = s.ff) (htrap : u.trap = s.trap) :
    RaisesLast l s (u.branch taken ea) := .of_quiet (by simp [hff]) (by simp [htrap])

/-- A test raises 45 when it is blocked, and nothing else (43_conditional_transfer.md R302). -/
theorem RaisesLast.of_condXfer (ea : Nat) (c : Cond) : RaisesLast [45] s (condXfer s ea c) := by
  cases c with
  | yes => exact .of_branch rfl rfl
  | no => exact .of_branch rfl rfl
  | blocked => exact .of_raise rfl rfl (by decide)

/-- An instruction whose answers all raise last within `l` does. -/
theorem Answers.raisesLast {r : Out} {o : Fields} {there : Nat → Bool} {v : Nat → State} (hans : Answers r s o there v)
    (ht : r = .next t) (h : ∀ ea, RaisesLast l s (v ea)) : RaisesLast l s t := by
  obtain ⟨ea, -, -, rfl⟩ := (hans t).1 ht
  exact h ea

/-- A contingency raised last is the outcome, with its flip-flop and FF 99 set (R472, R480, R481). -/
theorem RaisesLast.recorded (h : RaisesLast l s t) (hl : l ⊆ contingencyFlags) :
    (t.ff = s.ff ∧ t.trap = s.trap) ∨
      ∃ k ∈ l, t.trap = some ⟨.contingency, k⟩ ∧ t.flag k = true ∧ t.flag 99 = true := by
  obtain ⟨u, ks, hff, htrap, hks, rfl⟩ := h
  cases ks with
  | nil => exact .inl ⟨hff, htrap⟩
  | cons k more =>
    have hset := fun j => (flag_raise_iff u (kind := .contingency) (List.Subset.trans hks hl) j).2
    exact .inr ⟨k, hks (by simp), rfl, hset k (.inl (by simp)), hset 99 (.inr (.inl ⟨by simp, rfl⟩))⟩

end

/-- Every instruction but 96 and 97 raises its own contingencies alone, and last. That its flip-flops change so (`exec_raises`)
does not fix the outcome: a contingency's flip-flop may have been set before. -/
theorem exec_raisesLast {i : Instr} {s t : State} (h : exec i s = .next t) (hrf : ∀ o, i ≠ .rf o) (hsf : ∀ o, i ≠ .sf o) :
    RaisesLast (raisable i) s t := by
  cases i with
  | ax o | nx o => exact (arithA_answers o s _).raisesLast h fun _ => .of_deposit1 (fxAdd1_raised _ _ _ _)
  | a o | n o | am o => exact (arithA_answers o s _).raisesLast h fun _ => .of_deposit1 (flAddSigned_raised _ _ _ _ _)
  | au o | nu o => exact (arithUp_answers o s _).raisesLast h fun _ => .of_deposit1 (flAddSigned_raised _ _ _ _ _)
  | aax o | nnx o => exact (arithPair_answers o s _).raisesLast h fun _ => .of_deposit2 (fxAdd2_raised _ _ _ _)
  | aa o | nn o => exact (arithPair_answers o s _).raisesLast h fun _ => .of_deposit2 (flAdd2_raised _ _ _ _)
  | mxr o => exact (arithA_answers o s _).raisesLast h fun _ => .of_deposit1 (fxMulRounded_raised _ _ _)
  | mxe o => exact (arithExt_answers o s _).raisesLast h fun _ => .of_deposit2 (fxMulExact_raised _ _ _)
  | mmx o => exact (arithPair_answers o s _).raisesLast h fun _ => .of_deposit2 (fxMulPair_raised _ _ _)
  | mr o | m o => exact (arithA_answers o s _).raisesLast h fun _ => .of_deposit1 (flMul1_raised _ _ _ _)
  | mu o => exact (arithUp_answers o s _).raisesLast h fun _ => .of_deposit1 (flMul1_raised _ _ _ _)
  | me o => exact (arithExt_answers o s _).raisesLast h fun _ => .of_deposit2 (flMulExt_raised _ _ _)
  | mm o => exact (arithPair_answers o s _).raisesLast h fun _ => .of_deposit2 (flMulPair_raised _ _ _)
  | dx o => exact (arithA_answers o s _).raisesLast h fun _ => .of_deposit1 (fxDiv1_raised _ _ _)
  | dxe o => exact (arithExt_answers o s _).raisesLast h fun _ => .of_deposit2 (fxDivRem_raised _ _ _)
  | ddx o => exact (arithPair_answers o s _).raisesLast h fun _ => .of_deposit2 (fxDivPair_raised _ _ _)
  | dr o => exact (arithA_answers o s _).raisesLast h fun _ => .of_deposit1 (flDiv1_raised _ _ _)
  | dur o => exact (arithUp_answers o s _).raisesLast h fun _ => .of_deposit1 (flDiv1_raised _ _ _)
  | dd o => exact (arithPair_answers o s _).raisesLast h fun _ => .of_deposit2 (flDivPair_raised _ _ _)
  | dse o => exact (arithPairBy_answers o s _).raisesLast h fun _ => .of_deposit2 (flDivPairBy_raised _ _ _)
  | s o | sm o =>
    exact (storeOne_answers o s _ _).raisesLast h fun _ => .of_raise (by simp) (by simp) (List.Subset.refl [])
  | sn o => exact (storeOne_answers o s _ _).raisesLast h fun _ => .of_raise (by simp) (by simp) (negRaised_subset _)
  | ss o | ssm o =>
    exact (storeTwo_answers o s _ _).raisesLast h fun _ => .of_raise (by simp) (by simp) (List.Subset.refl [])
  | ssn o => exact (storeTwo_answers o s _ _).raisesLast h fun _ => .of_raise (by simp) (by simp) (negRaised_subset _)
  | cx o | pr o | pl o => exact (onAcc_answers o s _).raisesLast h fun _ => .of_deposit1 (List.Subset.refl [])
  | c o => exact (onAcc_answers o s _).raisesLast h fun ea => .of_deposit1 (convertedFlags_subset (countOf_lt ea) _ _)
  | ccx o | ppr o | ppl o | ppc o =>
    exact (onAccPair_answers o s _).raisesLast h fun _ => .of_deposit2 (List.Subset.refl [])
  | cc o =>
    exact (onAccPair_answers o s _).raisesLast h fun ea => .of_deposit2 (convertedFlags_subset (countOf_lt ea) _ _)
  | te o | tg o => exact (testTwo_answers o s _).raisesLast h fun ea => .of_condXfer ea _
  | tz o | tgz o | tlz o => exact (testOne_answers o s _).raisesLast h fun ea => .of_condXfer ea _
  | tte o | ttg o => exact (testFour_answers o s _).raisesLast h fun ea => .of_condXfer ea _
  | tf o =>
    refine (execTf_answers o s).raisesLast h fun ea => ?_
    rw [condXfer_ofBool]
    exact .of_branch rfl rfl
  | f o => exact (execF_answers o s).raisesLast h fun _ => .of_quiet rfl rfl
  | ff o => exact (execFf_answers o s).raisesLast h fun _ => .of_quiet rfl rfl
  | eop o | ea o | eb o | eab o | em o => exact (extractPart_answers o s _ _).raisesLast h fun _ => .of_quiet rfl rfl
  | el o | eu o => exact (extractFrom_answers o s _).raisesLast h fun _ => .of_quiet rfl rfl
  | slj o => exact (execSlj_answers o s).raisesLast h fun _ => .of_quiet (by simp) (by simp)
  | bit o | bdt o | bic o | bdc o => exact (indexBranch_answers o s _ _).raisesLast h fun _ => .of_branch rfl rfl
  | bi o | bd o => exact (indexStep_answers o s _).raisesLast h fun _ => .of_quiet rfl rfl
  | t o => exact (execT_answers o s).raisesLast h fun _ => .of_branch rfl rfl
  | tr o => exact (execTr_answers o s).raisesLast h fun _ => .of_branch (by simp) (by simp)
  | tb o => exact (execTb_answers o s).raisesLast h fun _ => .of_branch rfl rfl
  | fv o | fvk o =>
    refine (displayFetch_answers o s _).raisesLast h fun _ => ?_
    split <;> exact .of_branch rfl rfl
  | sv o | svk o =>
    refine (displayStore_answers o s _).raisesLast h fun _ => ?_
    split <;> exact .of_branch rfl rfl
  | sk o => exact (execSk_answers o s).raisesLast h fun _ => .of_quiet rfl rfl
  | rf o => exact absurd rfl (hrf o)
  | sf o => exact absurd rfl (hsf o)
  | h o => exact (execH_answers o s).raisesLast h fun _ => .of_quiet rfl rfl

/-- Settles O17: 96 and 97 raise nothing, the others raise last. -/
theorem contingencyRecorded : Obligations.ContingencyRecorded := by
  intro i s t h hnone
  by_cases hrf : ∃ o, i = .rf o
  · obtain ⟨o, rfl⟩ := hrf
    obtain ⟨ea, -, -, rfl⟩ := (execRf_answers o s t).1 h
    exact .inl ⟨by simp [hnone], fun hne => absurd rfl (hne o)⟩
  by_cases hsf : ∃ o, i = .sf o
  · obtain ⟨o, rfl⟩ := hsf
    obtain ⟨ea, -, -, rfl⟩ := (execSf_answers o s t).1 h
    exact .inl ⟨hnone, fun _ hne => absurd rfl (hne o)⟩
  rcases (exec_raisesLast h (not_exists.1 hrf) (not_exists.1 hsf)).recorded (raisable_subset i) with ⟨hff, htrap⟩ | hraised
  · exact .inl ⟨htrap.trans hnone, fun _ _ k => flag_congr hff k⟩
  · exact .inr hraised

end Sys2Proof.Machine
end

section
/-! Display registers, skip, and the transfer to a routine (49_display_misc.md R440 to R445; 60_exceptions.md R472): three
statements, each read off what the instructions, or the turn of the unit, answer. -/

namespace Sys2Proof.Machine
open Sys2Proof

/-! ### The display instructions (R440) -/

section
variable {o : Fields} {s : State} {ea : Nat} (hea : effM s o = .ok ea)
include hea

/-- A fetch is done with Interlock set (R441, R442). -/
theorem displayFetch_done (hreg : s.hasReg o.a = true) (hlock : s.interlock = true) (f : State → Word) :
    outcome (displayFetch f o s) = .next { s.setReg o.a (f s) with
      interlock := false, connect := false, c2 := ea, pc := succAddr s.inst s.pc } := by
  rw [(displayFetch_answers o s f).eq_next hea hreg, if_pos hlock]
  rfl

/-- With Interlock reset it transfers control. -/
theorem displayFetch_transfer (hreg : s.hasReg o.a = true) (hlock : s.interlock = false) (f : State → Word) :
    outcome (displayFetch f o s) = .next { s with c2 := succAddr s.inst s.pc, pc := ea } := by
  rw [(displayFetch_answers o s f).eq_next hea hreg, if_neg (by simp [hlock])]
  rfl

/-- A store is done with Interlock reset (R443, R444). -/
theorem displayStore_done (hsupply : canSupply s o.a = true) (hlock : s.interlock = false) (f : Word → State → State) :
    outcome (displayStore f o s) = .next ((f (s.reg o.a) s).branch false ea) := by
  rw [(displayStore_answers o s f).eq_next hea hsupply, if_neg (by simp [hlock])]

/-- With Interlock set it transfers control. -/
theorem displayStore_transfer (hsupply : canSupply s o.a = true) (hlock : s.interlock = true) (f : Word → State → State) :
    outcome (displayStore f o s) = .next { s with c2 := succAddr s.inst s.pc, pc := ea } := by
  rw [(displayStore_answers o s f).eq_next hea hsupply, if_pos hlock]
  rfl

end

/-- Settles O57: each of the two shapes, done or transferring control. -/
theorem displayRegisters : Obligations.DisplayRegisters := by
  intro o s ea hea
  refine ⟨fun hreg hlock => ⟨⟨_, ?_, displayFetch_done hea hreg hlock _⟩, displayFetch_done hea hreg hlock _⟩,
    fun hreg hlock => ⟨displayFetch_transfer hea hreg hlock _, displayFetch_transfer hea hreg hlock _⟩,
    fun hsupply hlock => ⟨⟨_, _, ?_, displayStore_done hea hsupply hlock _⟩, _, displayStore_done hea hsupply hlock _⟩,
    fun hsupply hlock => ⟨displayStore_transfer hea hsupply hlock _, displayStore_transfer hea hsupply hlock _⟩⟩
  · rfl
  · exact Five.chars_ofChars _ (slice_length _ 5 1 (by decide) (by decide))

/-! ### Skip (R445) -/

/-- Settles O58: 00 asks for its effective address alone. -/
theorem skip : Obligations.Skip := by
  intro o s
  refine ⟨fun ea hea => (execSk_answers o s).eq_next hea rfl, fun hb hreg => ?_⟩
  obtain ⟨-, -, -, hmissing⟩ := effectiveAddress s o
  have hexec : execSk o s = .refused (.missingRegister o.b) := by
    rw [execSk, hmissing hb hreg, res_error_bind, outcome_refused]
  exact hexec

/-! ### The transfer to a routine (60_exceptions.md R472) -/

/-- A running unit with an event pending makes the transfer. -/
theorem cuTurn_of_trap {s : State} {e : Trap} (hrun : s.stopped = false) (htrap : s.trap = some e) :
    cuTurn s = .next (s.enterRoutine e) := by
  simp [cuTurn, hrun, htrap]

/-- Settles O10: the transfer is made from the state whose turn it is, and the count of turns does not concern goodness. -/
theorem routineEntry : Obligations.RoutineEntry := by
  intro s e hsched hrun htrap
  obtain ⟨hdone, hinst, hwritten, hschedule, htick, hgood⟩ := enterRoutine_spec s.turn e
  have hstep : step s = .next (s.turn.enterRoutine e) := by
    rw [step_of_no_schedule hsched, cuTurn_of_trap (by simpa using hrun) (by simpa using htrap)]
  exact ⟨_, hstep, hdone, hinst, hschedule.trans hsched, hwritten, htick,
    fun hs => hgood (good_congr hs rfl rfl rfl rfl rfl)⟩

end Sys2Proof.Machine
end
